-- ==== Sys2Proof/Word.lean ====
section
/-! DEFINITION. Word.lean: the bit-vector types of the MBL 8088 (00_scope.md R6, R10) and operand widths. -/

namespace Sys2Proof

/-- An 8-bit byte: the addressable unit (R60). -/
abbrev Byte := BitVec 8

/-- A 16-bit word: registers, offsets, port numbers (R6). -/
abbrev Word := BitVec 16

/-- A 20-bit physical address (R60). -/
abbrev PAddr := BitVec 20

/-- The operand width, the w field (R102): w = 0 byte, w = 1 word. -/
inductive Width where
  /-- w = 0. -/
  | byte
  /-- w = 1. -/
  | word
  deriving DecidableEq, Repr

/-- The number of bits of an operand of the width: the N of the instruction rules (R200). -/
@[reducible] def Width.bits : Width → Nat
  | .byte => 8
  | .word => 16

end Sys2Proof
end

