-- ==== Sys2Proof/Syntax.lean ====
section
/-! DEFINITION. Syntax.lean: the instructions of the MBL 8088 as data, one constructor per mnemonic of
spec/opcode_table.json, with the operand shapes of 30_encoding.md. -/

namespace Sys2Proof

/-- A 3-bit REG code (R104). Which register it names depends on the operand width: R21 for words, R22 for bytes. -/
inductive RegCode where
  /-- AX, or AL. -/
  | r000
  /-- CX, or CL. -/
  | r001
  /-- DX, or DL. -/
  | r010
  /-- BX, or BL. -/
  | r011
  /-- SP, or AH. -/
  | r100
  /-- BP, or CH. -/
  | r101
  /-- SI, or DH. -/
  | r110
  /-- DI, or BH. -/
  | r111
  deriving DecidableEq, Repr

/-- A segment register, by its 2-bit code (R25, R105). -/
inductive SegReg where
  /-- 00. -/
  | es
  /-- 01. -/
  | cs
  /-- 10. -/
  | ss
  /-- 11. -/
  | ds
  deriving DecidableEq, Repr

/-- The register part of an effective address, by the r/m field (R107). -/
inductive EaBase where
  /-- 000: BX + SI. -/
  | bxSi
  /-- 001: BX + DI. -/
  | bxDi
  /-- 010: BP + SI. -/
  | bpSi
  /-- 011: BP + DI. -/
  | bpDi
  /-- 100: SI. -/
  | si
  /-- 101: DI. -/
  | di
  /-- 110: BP (with mod = 01 or 10 only). -/
  | bp
  /-- 111: BX. -/
  | bx
  deriving DecidableEq, Repr

/-- A memory operand: the mod and r/m fields with the displacement bytes they call for (R106, R107). -/
inductive Mem where
  /-- mod = 00, r/m other than 110: no displacement. -/
  | plain (base : EaBase)
  /-- mod = 00, r/m = 110: a direct address. -/
  | direct (addr : Word)
  /-- mod = 01: one displacement byte, sign-extended. -/
  | disp8 (base : EaBase) (d : Byte)
  /-- mod = 10: two displacement bytes. -/
  | disp16 (base : EaBase) (d : Word)
  deriving DecidableEq, Repr

/-- An r/m operand (R103, R104, R106). -/
inductive RM where
  /-- mod = 11. -/
  | reg (r : RegCode)
  /-- mod = 00, 01, 10. -/
  | mem (m : Mem)
  deriving DecidableEq, Repr

/-- Immediate data of the operand's width (R111): it carries the w bit with it. -/
inductive Imm where
  /-- w = 0: one data byte. -/
  | byte (v : Byte)
  /-- w = 1: data-low, data-high. -/
  | word (v : Word)
  deriving DecidableEq, Repr

/-- The instructions of spec/opcode_table.json: one constructor per mnemonic of the table. Prefix bytes (R115) are
constructors too: each is executed by itself and sets the prefix state of R47. Reserved encodings (R119) carry the bits
the table leaves free, so that no bit of an encoding is dropped. -/
inductive Instr where
  -- DATA TRANSFER (40_data_transfer.md)
  /-- MOV r/m, reg and MOV reg, r/m (R150). -/
  | movRmReg (d : Bool) (w : Width) (rm : RM) (r : RegCode)
  /-- MOV r/m, imm (R151). -/
  | movRmImm (rm : RM) (imm : Imm)
  /-- MOV reg8, imm8 (R152). -/
  | movReg8Imm (r : RegCode) (imm : Byte)
  /-- MOV reg16, imm16 (R152). -/
  | movReg16Imm (r : RegCode) (imm : Word)
  /-- MOV AL/AX, [addr] (R153). -/
  | movAccMem (w : Width) (addr : Word)
  /-- MOV [addr], AL/AX (R154). -/
  | movMemAcc (w : Width) (addr : Word)
  /-- MOV ES, r/m16 (R155). -/
  | movEsRm (rm : RM)
  /-- MOV SS, r/m16 (R155). -/
  | movSsRm (rm : RM)
  /-- MOV DS, r/m16 (R155). -/
  | movDsRm (rm : RM)
  /-- MOV r/m16, sreg (R156). -/
  | movRmSreg (sr : SegReg) (rm : RM)
  /-- PUSH r/m16, but for the register SP (R159). -/
  | pushRm16 (rm : RM)
  /-- PUSH reg16 (R160). -/
  | pushReg16 (r : RegCode)
  /-- PUSH ES (R161). -/
  | pushEs
  /-- PUSH CS (R161). -/
  | pushCs
  /-- PUSH SS (R161). -/
  | pushSs
  /-- PUSH DS (R161). -/
  | pushDs
  /-- POP r/m16 (R162). -/
  | popRm16 (rm : RM)
  /-- POP reg16 (R163). -/
  | popReg16 (r : RegCode)
  /-- POP ES (R164). -/
  | popEs
  /-- POP SS (R164). -/
  | popSs
  /-- POP DS (R164). -/
  | popDs
  /-- XCHG r/m, reg (R166). -/
  | xchgRmReg (w : Width) (rm : RM) (r : RegCode)
  /-- XCHG AX, CX (R167). -/
  | xchgAxCx
  /-- XCHG AX, DX (R167). -/
  | xchgAxDx
  /-- XCHG AX, BX (R167). -/
  | xchgAxBx
  /-- XCHG AX, SP (R167). -/
  | xchgAxSp
  /-- XCHG AX, BP (R167). -/
  | xchgAxBp
  /-- XCHG AX, SI (R167). -/
  | xchgAxSi
  /-- XCHG AX, DI (R167). -/
  | xchgAxDi
  /-- IN AL/AX, port8 (R168). -/
  | inAccPort (w : Width) (port : Byte)
  /-- IN AL/AX, DX (R169). -/
  | inAccDx (w : Width)
  /-- OUT port8, AL/AX (R170). -/
  | outPortAcc (w : Width) (port : Byte)
  /-- OUT DX, AL/AX (R171). -/
  | outDxAcc (w : Width)
  /-- XLAT (R172). -/
  | xlat
  /-- LEA reg16, mem (R173). -/
  | lea (r : RegCode) (m : Mem)
  /-- LDS reg16, mem (R174). -/
  | lds (r : RegCode) (m : Mem)
  /-- LES reg16, mem (R175). -/
  | les (r : RegCode) (m : Mem)
  /-- LAHF (R176). -/
  | lahf
  /-- SAHF (R177). -/
  | sahf
  /-- PUSHF (R178). -/
  | pushf
  /-- POPF (R179). -/
  | popf
  -- ARITHMETIC (41_arithmetic.md)
  /-- ADD r/m, reg and ADD reg, r/m (R201). -/
  | addRmReg (d : Bool) (w : Width) (rm : RM) (r : RegCode)
  /-- ADD r/m, imm, 80H and 81H (R202). -/
  | addRmImm (rm : RM) (imm : Imm)
  /-- ADD r/m16, imm8 sign-extended, 83H (R202). -/
  | addRmImmSx (rm : RM) (imm : Byte)
  /-- ADD AL/AX, imm (R203). -/
  | addAccImm (imm : Imm)
  /-- ADC r/m, reg and ADC reg, r/m (R204). -/
  | adcRmReg (d : Bool) (w : Width) (rm : RM) (r : RegCode)
  /-- ADC r/m, imm, 80H and 81H (R205). -/
  | adcRmImm (rm : RM) (imm : Imm)
  /-- ADC r/m16, imm8 sign-extended, 83H (R205). -/
  | adcRmImmSx (rm : RM) (imm : Byte)
  /-- ADC AL/AX, imm (R206). -/
  | adcAccImm (imm : Imm)
  /-- SUB r/m, reg and SUB reg, r/m (R212). -/
  | subRmReg (d : Bool) (w : Width) (rm : RM) (r : RegCode)
  /-- SUB r/m, imm, 80H and 81H (R213). -/
  | subRmImm (rm : RM) (imm : Imm)
  /-- SUB r/m16, imm8 sign-extended, 83H (R213). -/
  | subRmImmSx (rm : RM) (imm : Byte)
  /-- SUB AL/AX, imm (R214). -/
  | subAccImm (imm : Imm)
  /-- SBB r/m, reg and SBB reg, r/m (R215). -/
  | sbbRmReg (d : Bool) (w : Width) (rm : RM) (r : RegCode)
  /-- SBB r/m, imm, 80H and 81H (R216). -/
  | sbbRmImm (rm : RM) (imm : Imm)
  /-- SBB r/m16, imm8 sign-extended, 83H (R216). -/
  | sbbRmImmSx (rm : RM) (imm : Byte)
  /-- SBB AL/AX, imm (R217). -/
  | sbbAccImm (imm : Imm)
  /-- CMP r/m, reg and CMP reg, r/m (R222). -/
  | cmpRmReg (d : Bool) (w : Width) (rm : RM) (r : RegCode)
  /-- CMP r/m, imm, 80H and 81H (R223). -/
  | cmpRmImm (rm : RM) (imm : Imm)
  /-- CMP r/m16, imm8 sign-extended, 83H (R223). -/
  | cmpRmImmSx (rm : RM) (imm : Byte)
  /-- CMP AL/AX, imm (R224). -/
  | cmpAccImm (imm : Imm)
  /-- INC r/m8 (R207). -/
  | incRm8 (rm : RM)
  /-- INC r/m16 (R207). -/
  | incRm16 (rm : RM)
  /-- INC reg16 (R208). -/
  | incReg16 (r : RegCode)
  /-- DEC r/m8 (R218). -/
  | decRm8 (rm : RM)
  /-- DEC r/m16 (R218). -/
  | decRm16 (rm : RM)
  /-- DEC reg16 (R219). -/
  | decReg16 (r : RegCode)
  /-- AAA (R210). -/
  | aaa
  /-- DAA (R211). -/
  | daa
  /-- AAS (R225). -/
  | aas
  /-- DAS (R226). -/
  | das
  /-- AAM (R232). -/
  | aam
  /-- AAD (R235). -/
  | aad
  /-- NEG r/m (R221). -/
  | negRm (w : Width) (rm : RM)
  /-- MUL r/m (R227). -/
  | mulRm (w : Width) (rm : RM)
  /-- IMUL r/m (R229). -/
  | imulRm (w : Width) (rm : RM)
  /-- DIV r/m (R233). -/
  | divRm (w : Width) (rm : RM)
  /-- IDIV r/m (R234). -/
  | idivRm (w : Width) (rm : RM)
  /-- CBW (R237). -/
  | cbw
  /-- CWD (R238). -/
  | cwd
  -- LOGIC (42_logic.md)
  /-- NOT r/m (R250). -/
  | notRm (w : Width) (rm : RM)
  /-- ROL r/m, 1 and r/m, CL (R251, R255). -/
  | rolRm (byCl : Bool) (w : Width) (rm : RM)
  /-- ROR r/m, 1 and r/m, CL (R251, R256). -/
  | rorRm (byCl : Bool) (w : Width) (rm : RM)
  /-- RCL r/m, 1 and r/m, CL (R251, R257). -/
  | rclRm (byCl : Bool) (w : Width) (rm : RM)
  /-- RCR r/m, 1 and r/m, CL (R251, R258). -/
  | rcrRm (byCl : Bool) (w : Width) (rm : RM)
  /-- SHL/SAL r/m, 1 and r/m, CL (R251, R252). -/
  | shlRm (byCl : Bool) (w : Width) (rm : RM)
  /-- SHR r/m, 1 and r/m, CL (R251, R253). -/
  | shrRm (byCl : Bool) (w : Width) (rm : RM)
  /-- SAR r/m, 1 and r/m, CL (R251, R254). -/
  | sarRm (byCl : Bool) (w : Width) (rm : RM)
  /-- AND r/m, reg and AND reg, r/m (R259). -/
  | andRmReg (d : Bool) (w : Width) (rm : RM) (r : RegCode)
  /-- AND r/m, imm (R260). -/
  | andRmImm (rm : RM) (imm : Imm)
  /-- AND AL/AX, imm (R261). -/
  | andAccImm (imm : Imm)
  /-- OR r/m, reg and OR reg, r/m (R265). -/
  | orRmReg (d : Bool) (w : Width) (rm : RM) (r : RegCode)
  /-- OR r/m, imm (R266). -/
  | orRmImm (rm : RM) (imm : Imm)
  /-- OR AL/AX, imm (R267). -/
  | orAccImm (imm : Imm)
  /-- XOR r/m, reg and XOR reg, r/m (R268). -/
  | xorRmReg (d : Bool) (w : Width) (rm : RM) (r : RegCode)
  /-- XOR r/m, imm (R269). -/
  | xorRmImm (rm : RM) (imm : Imm)
  /-- XOR AL/AX, imm (R270). -/
  | xorAccImm (imm : Imm)
  /-- TEST r/m, reg (R262). -/
  | testRmReg (w : Width) (rm : RM) (r : RegCode)
  /-- TEST r/m, imm (R263). -/
  | testRmImm (rm : RM) (imm : Imm)
  /-- TEST AL/AX, imm (R264). -/
  | testAccImm (imm : Imm)
  -- STRING MANIPULATION (43_string.md)
  /-- MOVS (R293). -/
  | movs (w : Width)
  /-- CMPS (R294). -/
  | cmps (w : Width)
  /-- SCAS (R295). -/
  | scas (w : Width)
  /-- LODS (R296). -/
  | lods (w : Width)
  /-- STOS (R297). -/
  | stos (w : Width)
  -- CONTROL TRANSFER (44_control_transfer.md)
  /-- CALL, direct within segment (R320). -/
  | callNear (disp : Word)
  /-- CALL, indirect within segment (R321). -/
  | callNearInd (rm : RM)
  /-- CALL, direct intersegment (R322). -/
  | callFar (off seg : Word)
  /-- CALL, indirect intersegment (R323). -/
  | callFarInd (m : Mem)
  /-- JMP, direct within segment (R325). -/
  | jmpNear (disp : Word)
  /-- JMP, direct within segment-short (R326). -/
  | jmpShort (disp : Byte)
  /-- JMP, indirect within segment (R327). -/
  | jmpNearInd (rm : RM)
  /-- JMP, direct intersegment (R328). -/
  | jmpFar (off seg : Word)
  /-- JMP, indirect intersegment (R329). -/
  | jmpFarInd (m : Mem)
  /-- RET, within segment (R330). -/
  | ret
  /-- RET, within segment adding immediate to SP (R331). -/
  | retImm (n : Word)
  /-- RET, intersegment (R332). -/
  | retf
  /-- RET, intersegment adding immediate to SP (R333). -/
  | retfImm (n : Word)
  /-- JO (R340). -/
  | jo (disp : Byte)
  /-- JNO (R341). -/
  | jno (disp : Byte)
  /-- JB/JNAE (R342). -/
  | jb (disp : Byte)
  /-- JNB/JAE (R343). -/
  | jnb (disp : Byte)
  /-- JE/JZ (R344). -/
  | je (disp : Byte)
  /-- JNE/JNZ (R345). -/
  | jne (disp : Byte)
  /-- JBE/JNA (R346). -/
  | jbe (disp : Byte)
  /-- JNBE/JA (R347). -/
  | jnbe (disp : Byte)
  /-- JS (R348). -/
  | js (disp : Byte)
  /-- JNS (R349). -/
  | jns (disp : Byte)
  /-- JP/JPE (R350). -/
  | jp (disp : Byte)
  /-- JNP/JPO (R351). -/
  | jnp (disp : Byte)
  /-- JL/JNGE (R352). -/
  | jl (disp : Byte)
  /-- JNL/JGE (R353). -/
  | jnl (disp : Byte)
  /-- JLE/JNG (R354). -/
  | jle (disp : Byte)
  /-- JNLE/JG (R355). -/
  | jnle (disp : Byte)
  /-- LOOP (R356). -/
  | loop (disp : Byte)
  /-- LOOPZ/LOOPE (R357). -/
  | loopz (disp : Byte)
  /-- LOOPNZ/LOOPNE (R358). -/
  | loopnz (disp : Byte)
  /-- JCXZ (R359). -/
  | jcxz (disp : Byte)
  /-- INT, type specified (R360). -/
  | intN (t : Byte)
  /-- INT, type 3 (R361). -/
  | int3
  /-- INTO (R362). -/
  | into
  /-- IRET (R363). -/
  | iret
  -- PROCESSOR CONTROL and prefix bytes (45_processor_control.md)
  /-- CLC (R390). -/
  | clc
  /-- CMC (R391). -/
  | cmc
  /-- STC (R392). -/
  | stc
  /-- CLD (R393). -/
  | cld
  /-- STD (R394). -/
  | std
  /-- CLI (R395). -/
  | cli
  /-- STI (R398). -/
  | sti
  /-- HLT (R396). -/
  | hlt
  /-- WAIT (R397). -/
  | wait
  /-- ESC, with its six x bits (R399). -/
  | esc (hi lo : BitVec 3) (rm : RM)
  /-- the LOCK prefix byte (R400). -/
  | lock
  /-- NOP (R401). -/
  | nop
  /-- the ES segment override prefix byte (R402). -/
  | overrideEs
  /-- the CS segment override prefix byte (R402). -/
  | overrideCs
  /-- the SS segment override prefix byte (R402). -/
  | overrideSs
  /-- the DS segment override prefix byte (R402). -/
  | overrideDs
  /-- the repeat prefix byte, z = 1 REP/REPE/REPZ, z = 0 REPNE/REPNZ (R292). -/
  | rep (z : Bool)
  -- encodings the spec refuses (30_encoding.md R119; R159)
  /-- FFH F4H, PUSH with the register SP as r/m operand (R159, U12). -/
  | refPushSp
  /-- 0FH. -/
  | resPopCs
  /-- 60H to 6FH. -/
  | res60 (lo : BitVec 4)
  /-- 82H, s:w = 10. -/
  | res82
  /-- 83H /1. -/
  | res83Or (mod : BitVec 2) (rm : BitVec 3)
  /-- 83H /4. -/
  | res83And (mod : BitVec 2) (rm : BitVec 3)
  /-- 83H /6. -/
  | res83Xor (mod : BitVec 2) (rm : BitVec 3)
  /-- 8CH with bit 5 of the second byte set. -/
  | res8C (mod : BitVec 2) (lo : BitVec 5)
  /-- 8EH with bit 5 of the second byte set. -/
  | res8E (mod : BitVec 2) (lo : BitVec 5)
  /-- 8EH with SR = 01, MOV to CS. -/
  | resMovCs (mod : BitVec 2) (rm : BitVec 3)
  /-- 8DH with mod = 11. -/
  | resLea (reg rm : BitVec 3)
  /-- C4H with mod = 11. -/
  | resLes (reg rm : BitVec 3)
  /-- C5H with mod = 11. -/
  | resLds (reg rm : BitVec 3)
  /-- 8FH /1. -/
  | res8F1 (mod : BitVec 2) (rm : BitVec 3)
  /-- 8FH /2. -/
  | res8F2 (mod : BitVec 2) (rm : BitVec 3)
  /-- 8FH /3. -/
  | res8F3 (mod : BitVec 2) (rm : BitVec 3)
  /-- 8FH /4. -/
  | res8F4 (mod : BitVec 2) (rm : BitVec 3)
  /-- 8FH /5. -/
  | res8F5 (mod : BitVec 2) (rm : BitVec 3)
  /-- 8FH /6. -/
  | res8F6 (mod : BitVec 2) (rm : BitVec 3)
  /-- 8FH /7. -/
  | res8F7 (mod : BitVec 2) (rm : BitVec 3)
  /-- C0H, C1H. -/
  | resC0 (x : BitVec 1)
  /-- C8H, C9H. -/
  | resC8 (x : BitVec 1)
  /-- C6H, C7H /1. -/
  | resC61 (w : Width) (mod : BitVec 2) (rm : BitVec 3)
  /-- C6H, C7H /2. -/
  | resC62 (w : Width) (mod : BitVec 2) (rm : BitVec 3)
  /-- C6H, C7H /3. -/
  | resC63 (w : Width) (mod : BitVec 2) (rm : BitVec 3)
  /-- C6H, C7H /4. -/
  | resC64 (w : Width) (mod : BitVec 2) (rm : BitVec 3)
  /-- C6H, C7H /5. -/
  | resC65 (w : Width) (mod : BitVec 2) (rm : BitVec 3)
  /-- C6H, C7H /6. -/
  | resC66 (w : Width) (mod : BitVec 2) (rm : BitVec 3)
  /-- C6H, C7H /7. -/
  | resC67 (w : Width) (mod : BitVec 2) (rm : BitVec 3)
  /-- D0H to D3H /6. -/
  | resD06 (v : Bool) (w : Width) (mod : BitVec 2) (rm : BitVec 3)
  /-- D4H with a second byte other than 0AH. -/
  | resD4 (b : Byte)
  /-- D5H with a second byte other than 0AH. -/
  | resD5 (b : Byte)
  /-- D6H. -/
  | resD6
  /-- F1H. -/
  | resF1
  /-- F6H, F7H /1. -/
  | resF61 (w : Width) (mod : BitVec 2) (rm : BitVec 3)
  /-- FEH /2. -/
  | resFE2 (mod : BitVec 2) (rm : BitVec 3)
  /-- FEH /3. -/
  | resFE3 (mod : BitVec 2) (rm : BitVec 3)
  /-- FEH /4. -/
  | resFE4 (mod : BitVec 2) (rm : BitVec 3)
  /-- FEH /5. -/
  | resFE5 (mod : BitVec 2) (rm : BitVec 3)
  /-- FEH /6. -/
  | resFE6 (mod : BitVec 2) (rm : BitVec 3)
  /-- FEH /7. -/
  | resFE7 (mod : BitVec 2) (rm : BitVec 3)
  /-- FFH /7. -/
  | resFF7 (mod : BitVec 2) (rm : BitVec 3)
  /-- FFH /3 with mod = 11. -/
  | resCallFarReg (rm : BitVec 3)
  /-- FFH /5 with mod = 11. -/
  | resJmpFarReg (rm : BitVec 3)
  deriving DecidableEq, Repr

end Sys2Proof
end

