-- ==== Sys2Proof/Decode.lean ====
section
/-! DEFINITION. Decode.lean: reading one prefix byte or one instruction from a list of bytes (30_encoding.md R100 to R119),
and writing it back. Every byte sequence that is long enough decodes: reserved encodings (R119) to constructors of their
own. The only rejection is a list that ends inside an instruction. -/

namespace Sys2Proof

/-- Why a list of bytes is no instruction. -/
inductive DecodeError where
  /-- The list ends before the instruction does. -/
  | truncated
  deriving DecidableEq, Repr

/-- What the decoder answers: the instruction and the bytes after it. -/
abbrev Decoded := Except DecodeError (Instr × List Byte)

/-! ### Fields (R9, R102 to R105) -/

/-- The w bit. -/
def Width.ofBit : Bool → Width
  | false => .byte
  | true => .word

/-- The w bit of a width. -/
def Width.toBit : Width → Bool
  | .byte => false
  | .word => true

/-- REG code of three bits (R104). -/
def RegCode.ofBits (b : BitVec 3) : RegCode :=
  match b.toNat with
  | 0 => .r000 | 1 => .r001 | 2 => .r010 | 3 => .r011 | 4 => .r100 | 5 => .r101 | 6 => .r110 | _ => .r111

/-- The three bits of a REG code. -/
def RegCode.toBits : RegCode → BitVec 3
  | .r000 => 0#3 | .r001 => 1#3 | .r010 => 2#3 | .r011 => 3#3 | .r100 => 4#3 | .r101 => 5#3 | .r110 => 6#3 | .r111 => 7#3

/-- Segment register of two bits (R105). -/
def SegReg.ofBits (b : BitVec 2) : SegReg :=
  match b.toNat with
  | 0 => .es | 1 => .cs | 2 => .ss | _ => .ds

/-- The two bits of a segment register. -/
def SegReg.toBits : SegReg → BitVec 2
  | .es => 0#2 | .cs => 1#2 | .ss => 2#2 | .ds => 3#2

/-- Register part of the effective address, by r/m (R107). -/
def EaBase.ofBits (b : BitVec 3) : EaBase :=
  match b.toNat with
  | 0 => .bxSi | 1 => .bxDi | 2 => .bpSi | 3 => .bpDi | 4 => .si | 5 => .di | 6 => .bp | _ => .bx

/-- The r/m field of a register part. -/
def EaBase.toBits : EaBase → BitVec 3
  | .bxSi => 0#3 | .bxDi => 1#3 | .bpSi => 2#3 | .bpDi => 3#3 | .si => 4#3 | .di => 5#3 | .bp => 6#3 | .bx => 7#3

/-- mod, bits 7-6 of the second byte (R103). -/
def modField (m : Byte) : BitVec 2 := m.extractLsb' 6 2

/-- reg, bits 5-3 of the second byte (R103). -/
def regField (m : Byte) : BitVec 3 := m.extractLsb' 3 3

/-- r/m, bits 2-0 of the second byte (R103). -/
def rmField (m : Byte) : BitVec 3 := m.extractLsb' 0 3

/-- The mod-reg-r/m byte (R103). -/
def modRegRm (mod : BitVec 2) (reg rm : BitVec 3) : Byte := mod ++ reg ++ rm

/-- The word of two bytes, `hi : lo` (R10, R67). -/
def wordOf (hi lo : Byte) : Word := hi ++ lo

/-- The low-order byte of a word. -/
def lowByte (v : Word) : Byte := v.extractLsb' 0 8

/-- The high-order byte of a word. -/
def highByte (v : Word) : Byte := v.extractLsb' 8 8

/-- `sext_16` of R10. -/
def sext16 (b : Byte) : Word := b.signExtend 16

/-- `zext_16` of R10. -/
def zext16 (b : Byte) : Word := b.setWidth 16

/-! ### Taking bytes from the stream -/

/-- One byte. -/
def takeByte (bs : List Byte) (k : Byte → List Byte → Decoded) : Decoded :=
  match bs with
  | [] => .error .truncated
  | b :: rest => k b rest

/-- Two bytes, the low one first (R67, R111). -/
def takeWord (bs : List Byte) (k : Word → List Byte → Decoded) : Decoded :=
  takeByte bs fun lo bs => takeByte bs fun hi bs => k (wordOf hi lo) bs

/-- Immediate data of the width (R111). -/
def takeImm (w : Width) (bs : List Byte) (k : Imm → List Byte → Decoded) : Decoded :=
  match w with
  | .byte => takeByte bs fun v bs => k (.byte v) bs
  | .word => takeWord bs fun v bs => k (.word v) bs

/-- A memory operand's displacement bytes, for mod = 00, 01, 10 (R106, R107). -/
def takeMem (mod : BitVec 2) (rm : BitVec 3) (bs : List Byte) (k : Mem → List Byte → Decoded) : Decoded :=
  match mod.toNat with
  | 0 => if rm = 6#3 then takeWord bs fun a bs => k (.direct a) bs else k (.plain (EaBase.ofBits rm)) bs
  | 1 => takeByte bs fun d bs => k (.disp8 (EaBase.ofBits rm) d) bs
  | _ => takeWord bs fun d bs => k (.disp16 (EaBase.ofBits rm) d) bs

/-- The r/m operand of a second byte `m` (R103, R104, R106). -/
def takeRm (m : Byte) (bs : List Byte) (k : RM → List Byte → Decoded) : Decoded :=
  if modField m = 3#2 then k (.reg (RegCode.ofBits (rmField m))) bs
  else takeMem (modField m) (rmField m) bs fun a bs => k (.mem a) bs

/-- A second byte with a register field and an r/m operand. -/
def takeRegRm (bs : List Byte) (k : RegCode → RM → List Byte → Decoded) : Decoded :=
  takeByte bs fun m bs => takeRm m bs fun rm bs => k (RegCode.ofBits (regField m)) rm bs

/-- A second byte that must name a memory operand; with mod = 11 it is the reserved encoding `res` (R119). -/
def takeRegMem (bs : List Byte) (res : BitVec 3 → BitVec 3 → Instr) (k : RegCode → Mem → Instr) : Decoded :=
  takeByte bs fun m bs =>
    if modField m = 3#2 then .ok (res (regField m) (rmField m), bs)
    else takeMem (modField m) (rmField m) bs fun a bs => .ok (k (RegCode.ofBits (regField m)) a, bs)

/-! ### Groups (R117, R118) -/

/-- `00 ooo 0dw`: the eight two-operand instructions with r/m and register. -/
def aluRmReg (o : BitVec 3) (d : Bool) (w : Width) (rm : RM) (r : RegCode) : Instr :=
  match o.toNat with
  | 0 => .addRmReg d w rm r
  | 1 => .orRmReg d w rm r
  | 2 => .adcRmReg d w rm r
  | 3 => .sbbRmReg d w rm r
  | 4 => .andRmReg d w rm r
  | 5 => .subRmReg d w rm r
  | 6 => .xorRmReg d w rm r
  | _ => .cmpRmReg d w rm r

/-- `00 ooo 10w`: the same with accumulator and immediate. -/
def aluAccImm (o : BitVec 3) (imm : Imm) : Instr :=
  match o.toNat with
  | 0 => .addAccImm imm
  | 1 => .orAccImm imm
  | 2 => .adcAccImm imm
  | 3 => .sbbAccImm imm
  | 4 => .andAccImm imm
  | 5 => .subAccImm imm
  | 6 => .xorAccImm imm
  | _ => .cmpAccImm imm

/-- 80H, 81H: the same with r/m and immediate. -/
def aluRmImm (o : BitVec 3) (rm : RM) (imm : Imm) : Instr :=
  match o.toNat with
  | 0 => .addRmImm rm imm
  | 1 => .orRmImm rm imm
  | 2 => .adcRmImm rm imm
  | 3 => .sbbRmImm rm imm
  | 4 => .andRmImm rm imm
  | 5 => .subRmImm rm imm
  | 6 => .xorRmImm rm imm
  | _ => .cmpRmImm rm imm

/-- 83H: sign-extended immediate, defined for the arithmetic members only (R119). -/
def decode83 (bs : List Byte) : Decoded :=
  takeByte bs fun m bs =>
    match (regField m).toNat with
    | 0 => takeRm m bs fun rm bs => takeByte bs fun v bs => .ok (.addRmImmSx rm v, bs)
    | 1 => .ok (.res83Or (modField m) (rmField m), bs)
    | 2 => takeRm m bs fun rm bs => takeByte bs fun v bs => .ok (.adcRmImmSx rm v, bs)
    | 3 => takeRm m bs fun rm bs => takeByte bs fun v bs => .ok (.sbbRmImmSx rm v, bs)
    | 4 => .ok (.res83And (modField m) (rmField m), bs)
    | 5 => takeRm m bs fun rm bs => takeByte bs fun v bs => .ok (.subRmImmSx rm v, bs)
    | 6 => .ok (.res83Xor (modField m) (rmField m), bs)
    | _ => takeRm m bs fun rm bs => takeByte bs fun v bs => .ok (.cmpRmImmSx rm v, bs)

/-- 8CH: MOV r/m16, sreg; bit 5 of the second byte must be 0 (R156, R119). -/
def decode8C (bs : List Byte) : Decoded :=
  takeByte bs fun m bs =>
    if m.getLsbD 5 then .ok (.res8C (modField m) (m.extractLsb' 0 5), bs)
    else takeRm m bs fun rm bs => .ok (.movRmSreg (SegReg.ofBits (m.extractLsb' 3 2)) rm, bs)

/-- 8EH: MOV sreg, r/m16; bit 5 of the second byte must be 0, SR = 01 is reserved (R155, R119). -/
def decode8E (bs : List Byte) : Decoded :=
  takeByte bs fun m bs =>
    match (regField m).toNat with
    | 0 => takeRm m bs fun rm bs => .ok (.movEsRm rm, bs)
    | 1 => .ok (.resMovCs (modField m) (rmField m), bs)
    | 2 => takeRm m bs fun rm bs => .ok (.movSsRm rm, bs)
    | 3 => takeRm m bs fun rm bs => .ok (.movDsRm rm, bs)
    | _ => .ok (.res8E (modField m) (m.extractLsb' 0 5), bs)

/-- 8FH: POP r/m16 with reg field 000 (R162, R119). -/
def decode8F (bs : List Byte) : Decoded :=
  takeByte bs fun m bs =>
    match (regField m).toNat with
    | 0 => takeRm m bs fun rm bs => .ok (.popRm16 rm, bs)
    | 1 => .ok (.res8F1 (modField m) (rmField m), bs)
    | 2 => .ok (.res8F2 (modField m) (rmField m), bs)
    | 3 => .ok (.res8F3 (modField m) (rmField m), bs)
    | 4 => .ok (.res8F4 (modField m) (rmField m), bs)
    | 5 => .ok (.res8F5 (modField m) (rmField m), bs)
    | 6 => .ok (.res8F6 (modField m) (rmField m), bs)
    | _ => .ok (.res8F7 (modField m) (rmField m), bs)

/-- C6H, C7H: MOV r/m, imm with reg field 000 (R151, R119). -/
def decodeC6 (w : Width) (bs : List Byte) : Decoded :=
  takeByte bs fun m bs =>
    match (regField m).toNat with
    | 0 => takeRm m bs fun rm bs => takeImm w bs fun imm bs => .ok (.movRmImm rm imm, bs)
    | 1 => .ok (.resC61 w (modField m) (rmField m), bs)
    | 2 => .ok (.resC62 w (modField m) (rmField m), bs)
    | 3 => .ok (.resC63 w (modField m) (rmField m), bs)
    | 4 => .ok (.resC64 w (modField m) (rmField m), bs)
    | 5 => .ok (.resC65 w (modField m) (rmField m), bs)
    | 6 => .ok (.resC66 w (modField m) (rmField m), bs)
    | _ => .ok (.resC67 w (modField m) (rmField m), bs)

/-- D0H to D3H: shifts and rotates, `110100vw` (R251, R119). -/
def decodeShift (v : Bool) (w : Width) (bs : List Byte) : Decoded :=
  takeByte bs fun m bs =>
    match (regField m).toNat with
    | 0 => takeRm m bs fun rm bs => .ok (.rolRm v w rm, bs)
    | 1 => takeRm m bs fun rm bs => .ok (.rorRm v w rm, bs)
    | 2 => takeRm m bs fun rm bs => .ok (.rclRm v w rm, bs)
    | 3 => takeRm m bs fun rm bs => .ok (.rcrRm v w rm, bs)
    | 4 => takeRm m bs fun rm bs => .ok (.shlRm v w rm, bs)
    | 5 => takeRm m bs fun rm bs => .ok (.shrRm v w rm, bs)
    | 6 => .ok (.resD06 v w (modField m) (rmField m), bs)
    | _ => takeRm m bs fun rm bs => .ok (.sarRm v w rm, bs)

/-- F6H, F7H (R117, R119): only TEST has an immediate (R101). -/
def decodeF6 (w : Width) (bs : List Byte) : Decoded :=
  takeByte bs fun m bs =>
    match (regField m).toNat with
    | 0 => takeRm m bs fun rm bs => takeImm w bs fun imm bs => .ok (.testRmImm rm imm, bs)
    | 1 => .ok (.resF61 w (modField m) (rmField m), bs)
    | 2 => takeRm m bs fun rm bs => .ok (.notRm w rm, bs)
    | 3 => takeRm m bs fun rm bs => .ok (.negRm w rm, bs)
    | 4 => takeRm m bs fun rm bs => .ok (.mulRm w rm, bs)
    | 5 => takeRm m bs fun rm bs => .ok (.imulRm w rm, bs)
    | 6 => takeRm m bs fun rm bs => .ok (.divRm w rm, bs)
    | _ => takeRm m bs fun rm bs => .ok (.idivRm w rm, bs)

/-- FEH (R207, R218, R119). -/
def decodeFE (bs : List Byte) : Decoded :=
  takeByte bs fun m bs =>
    match (regField m).toNat with
    | 0 => takeRm m bs fun rm bs => .ok (.incRm8 rm, bs)
    | 1 => takeRm m bs fun rm bs => .ok (.decRm8 rm, bs)
    | 2 => .ok (.resFE2 (modField m) (rmField m), bs)
    | 3 => .ok (.resFE3 (modField m) (rmField m), bs)
    | 4 => .ok (.resFE4 (modField m) (rmField m), bs)
    | 5 => .ok (.resFE5 (modField m) (rmField m), bs)
    | 6 => .ok (.resFE6 (modField m) (rmField m), bs)
    | _ => .ok (.resFE7 (modField m) (rmField m), bs)

/-- FFH (R117, R119; FFH F4H by R159). -/
def decodeFF (bs : List Byte) : Decoded :=
  takeByte bs fun m bs =>
    match (regField m).toNat with
    | 0 => takeRm m bs fun rm bs => .ok (.incRm16 rm, bs)
    | 1 => takeRm m bs fun rm bs => .ok (.decRm16 rm, bs)
    | 2 => takeRm m bs fun rm bs => .ok (.callNearInd rm, bs)
    | 3 => if modField m = 3#2 then .ok (.resCallFarReg (rmField m), bs)
           else takeMem (modField m) (rmField m) bs fun a bs => .ok (.callFarInd a, bs)
    | 4 => takeRm m bs fun rm bs => .ok (.jmpNearInd rm, bs)
    | 5 => if modField m = 3#2 then .ok (.resJmpFarReg (rmField m), bs)
           else takeMem (modField m) (rmField m) bs fun a bs => .ok (.jmpFarInd a, bs)
    | 6 => if m = 0xF4#8 then .ok (.refPushSp, bs) else takeRm m bs fun rm bs => .ok (.pushRm16 rm, bs)
    | _ => .ok (.resFF7 (modField m) (rmField m), bs)

/-! ### The first byte (R117), by its bits 7-6, 5-3 and 2-0 -/

/-- 00H to 3FH. `o` is bits 5-3, `z` bits 2-0. -/
def decodeQ0 (o z : BitVec 3) (bs : List Byte) : Decoded :=
  match z.toNat with
  | 0 => takeRegRm bs fun r rm bs => .ok (aluRmReg o false .byte rm r, bs)
  | 1 => takeRegRm bs fun r rm bs => .ok (aluRmReg o false .word rm r, bs)
  | 2 => takeRegRm bs fun r rm bs => .ok (aluRmReg o true .byte rm r, bs)
  | 3 => takeRegRm bs fun r rm bs => .ok (aluRmReg o true .word rm r, bs)
  | 4 => takeImm .byte bs fun imm bs => .ok (aluAccImm o imm, bs)
  | 5 => takeImm .word bs fun imm bs => .ok (aluAccImm o imm, bs)
  | 6 =>
    match o.toNat with
    | 0 => .ok (.pushEs, bs)
    | 1 => .ok (.pushCs, bs)
    | 2 => .ok (.pushSs, bs)
    | 3 => .ok (.pushDs, bs)
    | 4 => .ok (.overrideEs, bs)
    | 5 => .ok (.overrideCs, bs)
    | 6 => .ok (.overrideSs, bs)
    | _ => .ok (.overrideDs, bs)
  | _ =>
    match o.toNat with
    | 0 => .ok (.popEs, bs)
    | 1 => .ok (.resPopCs, bs)
    | 2 => .ok (.popSs, bs)
    | 3 => .ok (.popDs, bs)
    | 4 => .ok (.daa, bs)
    | 5 => .ok (.das, bs)
    | 6 => .ok (.aaa, bs)
    | _ => .ok (.aas, bs)

/-- 70H to 7FH: the conditional jumps, by the condition number. -/
def jccOf (c : Nat) (d : Byte) : Instr :=
  match c with
  | 0 => .jo d
  | 1 => .jno d
  | 2 => .jb d
  | 3 => .jnb d
  | 4 => .je d
  | 5 => .jne d
  | 6 => .jbe d
  | 7 => .jnbe d
  | 8 => .js d
  | 9 => .jns d
  | 10 => .jp d
  | 11 => .jnp d
  | 12 => .jl d
  | 13 => .jnl d
  | 14 => .jle d
  | _ => .jnle d

/-- 40H to 7FH. -/
def decodeQ1 (o z : BitVec 3) (bs : List Byte) : Decoded :=
  match o.toNat with
  | 0 => .ok (.incReg16 (RegCode.ofBits z), bs)
  | 1 => .ok (.decReg16 (RegCode.ofBits z), bs)
  | 2 => .ok (.pushReg16 (RegCode.ofBits z), bs)
  | 3 => .ok (.popReg16 (RegCode.ofBits z), bs)
  | 4 => .ok (.res60 (0#1 ++ z), bs)
  | 5 => .ok (.res60 (1#1 ++ z), bs)
  | 6 => takeByte bs fun d bs => .ok (jccOf z.toNat d, bs)
  | _ => takeByte bs fun d bs => .ok (jccOf (8 + z.toNat) d, bs)

/-- 90H to 97H (R167, R401). -/
def xchgAxOf (z : BitVec 3) : Instr :=
  match z.toNat with
  | 0 => .nop
  | 1 => .xchgAxCx
  | 2 => .xchgAxDx
  | 3 => .xchgAxBx
  | 4 => .xchgAxSp
  | 5 => .xchgAxBp
  | 6 => .xchgAxSi
  | _ => .xchgAxDi

/-- 80H to 87H. -/
def decode80 (z : BitVec 3) (bs : List Byte) : Decoded :=
  match z.toNat with
  | 0 => takeByte bs fun m bs => takeRm m bs fun rm bs =>
      takeImm .byte bs fun imm bs => .ok (aluRmImm (regField m) rm imm, bs)
  | 1 => takeByte bs fun m bs => takeRm m bs fun rm bs =>
      takeImm .word bs fun imm bs => .ok (aluRmImm (regField m) rm imm, bs)
  | 2 => .ok (.res82, bs)
  | 3 => decode83 bs
  | 4 => takeRegRm bs fun r rm bs => .ok (.testRmReg .byte rm r, bs)
  | 5 => takeRegRm bs fun r rm bs => .ok (.testRmReg .word rm r, bs)
  | 6 => takeRegRm bs fun r rm bs => .ok (.xchgRmReg .byte rm r, bs)
  | _ => takeRegRm bs fun r rm bs => .ok (.xchgRmReg .word rm r, bs)

/-- 88H to 8FH. -/
def decode88 (z : BitVec 3) (bs : List Byte) : Decoded :=
  match z.toNat with
  | 0 => takeRegRm bs fun r rm bs => .ok (.movRmReg false .byte rm r, bs)
  | 1 => takeRegRm bs fun r rm bs => .ok (.movRmReg false .word rm r, bs)
  | 2 => takeRegRm bs fun r rm bs => .ok (.movRmReg true .byte rm r, bs)
  | 3 => takeRegRm bs fun r rm bs => .ok (.movRmReg true .word rm r, bs)
  | 4 => decode8C bs
  | 5 => takeRegMem bs .resLea .lea
  | 6 => decode8E bs
  | _ => decode8F bs

/-- 98H to 9FH. -/
def decode98 (z : BitVec 3) (bs : List Byte) : Decoded :=
  match z.toNat with
  | 0 => .ok (.cbw, bs)
  | 1 => .ok (.cwd, bs)
  | 2 => takeWord bs fun off bs => takeWord bs fun seg bs => .ok (.callFar off seg, bs)
  | 3 => .ok (.wait, bs)
  | 4 => .ok (.pushf, bs)
  | 5 => .ok (.popf, bs)
  | 6 => .ok (.sahf, bs)
  | _ => .ok (.lahf, bs)

/-- A0H to A7H. -/
def decodeA0 (z : BitVec 3) (bs : List Byte) : Decoded :=
  match z.toNat with
  | 0 => takeWord bs fun a bs => .ok (.movAccMem .byte a, bs)
  | 1 => takeWord bs fun a bs => .ok (.movAccMem .word a, bs)
  | 2 => takeWord bs fun a bs => .ok (.movMemAcc .byte a, bs)
  | 3 => takeWord bs fun a bs => .ok (.movMemAcc .word a, bs)
  | 4 => .ok (.movs .byte, bs)
  | 5 => .ok (.movs .word, bs)
  | 6 => .ok (.cmps .byte, bs)
  | _ => .ok (.cmps .word, bs)

/-- A8H to AFH. -/
def decodeA8 (z : BitVec 3) (bs : List Byte) : Decoded :=
  match z.toNat with
  | 0 => takeImm .byte bs fun imm bs => .ok (.testAccImm imm, bs)
  | 1 => takeImm .word bs fun imm bs => .ok (.testAccImm imm, bs)
  | 2 => .ok (.stos .byte, bs)
  | 3 => .ok (.stos .word, bs)
  | 4 => .ok (.lods .byte, bs)
  | 5 => .ok (.lods .word, bs)
  | 6 => .ok (.scas .byte, bs)
  | _ => .ok (.scas .word, bs)

/-- 80H to BFH. -/
def decodeQ2 (o z : BitVec 3) (bs : List Byte) : Decoded :=
  match o.toNat with
  | 0 => decode80 z bs
  | 1 => decode88 z bs
  | 2 => .ok (xchgAxOf z, bs)
  | 3 => decode98 z bs
  | 4 => decodeA0 z bs
  | 5 => decodeA8 z bs
  | 6 => takeByte bs fun v bs => .ok (.movReg8Imm (RegCode.ofBits z) v, bs)
  | _ => takeWord bs fun v bs => .ok (.movReg16Imm (RegCode.ofBits z) v, bs)

/-- C0H to C7H. -/
def decodeC0 (z : BitVec 3) (bs : List Byte) : Decoded :=
  match z.toNat with
  | 0 => .ok (.resC0 0#1, bs)
  | 1 => .ok (.resC0 1#1, bs)
  | 2 => takeWord bs fun n bs => .ok (.retImm n, bs)
  | 3 => .ok (.ret, bs)
  | 4 => takeRegMem bs .resLes .les
  | 5 => takeRegMem bs .resLds .lds
  | 6 => decodeC6 .byte bs
  | _ => decodeC6 .word bs

/-- C8H to CFH. -/
def decodeC8 (z : BitVec 3) (bs : List Byte) : Decoded :=
  match z.toNat with
  | 0 => .ok (.resC8 0#1, bs)
  | 1 => .ok (.resC8 1#1, bs)
  | 2 => takeWord bs fun n bs => .ok (.retfImm n, bs)
  | 3 => .ok (.retf, bs)
  | 4 => .ok (.int3, bs)
  | 5 => takeByte bs fun t bs => .ok (.intN t, bs)
  | 6 => .ok (.into, bs)
  | _ => .ok (.iret, bs)

/-- D0H to D7H; AAM and AAD have the fixed second byte 0AH (R232, R235, R119). -/
def decodeD0 (z : BitVec 3) (bs : List Byte) : Decoded :=
  match z.toNat with
  | 0 => decodeShift false .byte bs
  | 1 => decodeShift false .word bs
  | 2 => decodeShift true .byte bs
  | 3 => decodeShift true .word bs
  | 4 => takeByte bs fun b bs => .ok (if b = 0x0A#8 then .aam else .resD4 b, bs)
  | 5 => takeByte bs fun b bs => .ok (if b = 0x0A#8 then .aad else .resD5 b, bs)
  | 6 => .ok (.resD6, bs)
  | _ => .ok (.xlat, bs)

/-- E0H to E7H. -/
def decodeE0 (z : BitVec 3) (bs : List Byte) : Decoded :=
  match z.toNat with
  | 0 => takeByte bs fun d bs => .ok (.loopnz d, bs)
  | 1 => takeByte bs fun d bs => .ok (.loopz d, bs)
  | 2 => takeByte bs fun d bs => .ok (.loop d, bs)
  | 3 => takeByte bs fun d bs => .ok (.jcxz d, bs)
  | 4 => takeByte bs fun p bs => .ok (.inAccPort .byte p, bs)
  | 5 => takeByte bs fun p bs => .ok (.inAccPort .word p, bs)
  | 6 => takeByte bs fun p bs => .ok (.outPortAcc .byte p, bs)
  | _ => takeByte bs fun p bs => .ok (.outPortAcc .word p, bs)

/-- E8H to EFH. -/
def decodeE8 (z : BitVec 3) (bs : List Byte) : Decoded :=
  match z.toNat with
  | 0 => takeWord bs fun d bs => .ok (.callNear d, bs)
  | 1 => takeWord bs fun d bs => .ok (.jmpNear d, bs)
  | 2 => takeWord bs fun off bs => takeWord bs fun seg bs => .ok (.jmpFar off seg, bs)
  | 3 => takeByte bs fun d bs => .ok (.jmpShort d, bs)
  | 4 => .ok (.inAccDx .byte, bs)
  | 5 => .ok (.inAccDx .word, bs)
  | 6 => .ok (.outDxAcc .byte, bs)
  | _ => .ok (.outDxAcc .word, bs)

/-- F0H to F7H. -/
def decodeF0 (z : BitVec 3) (bs : List Byte) : Decoded :=
  match z.toNat with
  | 0 => .ok (.lock, bs)
  | 1 => .ok (.resF1, bs)
  | 2 => .ok (.rep false, bs)
  | 3 => .ok (.rep true, bs)
  | 4 => .ok (.hlt, bs)
  | 5 => .ok (.cmc, bs)
  | 6 => decodeF6 .byte bs
  | _ => decodeF6 .word bs

/-- F8H to FFH. -/
def decodeF8 (z : BitVec 3) (bs : List Byte) : Decoded :=
  match z.toNat with
  | 0 => .ok (.clc, bs)
  | 1 => .ok (.stc, bs)
  | 2 => .ok (.cli, bs)
  | 3 => .ok (.sti, bs)
  | 4 => .ok (.cld, bs)
  | 5 => .ok (.std, bs)
  | 6 => decodeFE bs
  | _ => decodeFF bs

/-- C0H to FFH. -/
def decodeQ3 (o z : BitVec 3) (bs : List Byte) : Decoded :=
  match o.toNat with
  | 0 => decodeC0 z bs
  | 1 => decodeC8 z bs
  | 2 => decodeD0 z bs
  | 3 => takeByte bs fun m bs => takeRm m bs fun rm bs => .ok (.esc z (regField m) rm, bs)
  | 4 => decodeE0 z bs
  | 5 => decodeE8 z bs
  | 6 => decodeF0 z bs
  | _ => decodeF8 z bs

/-- The instruction with first byte `b`, from the bytes after it (R117). -/
def decodeOpcode (b : Byte) (bs : List Byte) : Decoded :=
  match (modField b).toNat with
  | 0 => decodeQ0 (regField b) (rmField b) bs
  | 1 => decodeQ1 (regField b) (rmField b) bs
  | 2 => decodeQ2 (regField b) (rmField b) bs
  | _ => decodeQ3 (regField b) (rmField b) bs

/-- One prefix byte or one instruction without its prefixes, and the bytes after it (R100, R101, R118). -/
def decode (bs : List Byte) : Decoded := takeByte bs decodeOpcode

/-! ### The encoder -/

/-- A first byte with its w bit in bit 0. -/
def opW (op : Byte) (w : Width) : Byte := op ||| (BitVec.ofBool w.toBit).setWidth 8

/-- A first byte with its d (or v) bit in bit 1 and its w bit in bit 0. -/
def opDW (op : Byte) (d : Bool) (w : Width) : Byte := opW (op ||| ((BitVec.ofBool d).setWidth 8 <<< 1)) w

/-- A first byte with a register code in bits 2-0. -/
def opReg (op : Byte) (r : BitVec 3) : Byte := op ||| r.setWidth 8

/-- A word, low byte first (R67). -/
def encWord (v : Word) : List Byte := [lowByte v, highByte v]

/-- Immediate data (R111). -/
def encImm : Imm → List Byte
  | .byte v => [v]
  | .word v => encWord v

/-- The width an immediate stands for. -/
def Imm.width : Imm → Width
  | .byte _ => .byte
  | .word _ => .word

/-- A memory operand: the second byte with `reg` in bits 5-3, then the displacement (R106, R107). -/
def encMem (reg : BitVec 3) : Mem → List Byte
  | .plain b => [modRegRm 0#2 reg b.toBits]
  | .direct a => modRegRm 0#2 reg 6#3 :: encWord a
  | .disp8 b d => [modRegRm 1#2 reg b.toBits, d]
  | .disp16 b d => modRegRm 2#2 reg b.toBits :: encWord d

/-- An r/m operand: the second byte with `reg` in bits 5-3, then the displacement. -/
def encRm (reg : BitVec 3) : RM → List Byte
  | .reg r => [modRegRm 3#2 reg r.toBits]
  | .mem m => encMem reg m

/-- The bytes of an instruction (R117). -/
def encode : Instr → List Byte
  | .movRmReg d w rm r => opDW 0x88#8 d w :: encRm r.toBits rm
  | .movRmImm rm imm => opW 0xC6#8 imm.width :: (encRm 0#3 rm ++ encImm imm)
  | .movReg8Imm r v => [opReg 0xB0#8 r.toBits, v]
  | .movReg16Imm r v => opReg 0xB8#8 r.toBits :: encWord v
  | .movAccMem w a => opW 0xA0#8 w :: encWord a
  | .movMemAcc w a => opW 0xA2#8 w :: encWord a
  | .movEsRm rm => 0x8E#8 :: encRm 0#3 rm
  | .movSsRm rm => 0x8E#8 :: encRm 2#3 rm
  | .movDsRm rm => 0x8E#8 :: encRm 3#3 rm
  | .movRmSreg sr rm => 0x8C#8 :: encRm (0#1 ++ sr.toBits) rm
  | .pushRm16 rm => 0xFF#8 :: encRm 6#3 rm
  | .pushReg16 r => [opReg 0x50#8 r.toBits]
  | .pushEs => [0x06#8]
  | .pushCs => [0x0E#8]
  | .pushSs => [0x16#8]
  | .pushDs => [0x1E#8]
  | .popRm16 rm => 0x8F#8 :: encRm 0#3 rm
  | .popReg16 r => [opReg 0x58#8 r.toBits]
  | .popEs => [0x07#8]
  | .popSs => [0x17#8]
  | .popDs => [0x1F#8]
  | .xchgRmReg w rm r => opW 0x86#8 w :: encRm r.toBits rm
  | .xchgAxCx => [0x91#8]
  | .xchgAxDx => [0x92#8]
  | .xchgAxBx => [0x93#8]
  | .xchgAxSp => [0x94#8]
  | .xchgAxBp => [0x95#8]
  | .xchgAxSi => [0x96#8]
  | .xchgAxDi => [0x97#8]
  | .inAccPort w p => [opW 0xE4#8 w, p]
  | .inAccDx w => [opW 0xEC#8 w]
  | .outPortAcc w p => [opW 0xE6#8 w, p]
  | .outDxAcc w => [opW 0xEE#8 w]
  | .xlat => [0xD7#8]
  | .lea r m => 0x8D#8 :: encMem r.toBits m
  | .lds r m => 0xC5#8 :: encMem r.toBits m
  | .les r m => 0xC4#8 :: encMem r.toBits m
  | .lahf => [0x9F#8]
  | .sahf => [0x9E#8]
  | .pushf => [0x9C#8]
  | .popf => [0x9D#8]
  | .addRmReg d w rm r => opDW 0x00#8 d w :: encRm r.toBits rm
  | .addRmImm rm imm => opW 0x80#8 imm.width :: (encRm 0#3 rm ++ encImm imm)
  | .addRmImmSx rm v => 0x83#8 :: (encRm 0#3 rm ++ [v])
  | .addAccImm imm => opW 0x04#8 imm.width :: encImm imm
  | .adcRmReg d w rm r => opDW 0x10#8 d w :: encRm r.toBits rm
  | .adcRmImm rm imm => opW 0x80#8 imm.width :: (encRm 2#3 rm ++ encImm imm)
  | .adcRmImmSx rm v => 0x83#8 :: (encRm 2#3 rm ++ [v])
  | .adcAccImm imm => opW 0x14#8 imm.width :: encImm imm
  | .subRmReg d w rm r => opDW 0x28#8 d w :: encRm r.toBits rm
  | .subRmImm rm imm => opW 0x80#8 imm.width :: (encRm 5#3 rm ++ encImm imm)
  | .subRmImmSx rm v => 0x83#8 :: (encRm 5#3 rm ++ [v])
  | .subAccImm imm => opW 0x2C#8 imm.width :: encImm imm
  | .sbbRmReg d w rm r => opDW 0x18#8 d w :: encRm r.toBits rm
  | .sbbRmImm rm imm => opW 0x80#8 imm.width :: (encRm 3#3 rm ++ encImm imm)
  | .sbbRmImmSx rm v => 0x83#8 :: (encRm 3#3 rm ++ [v])
  | .sbbAccImm imm => opW 0x1C#8 imm.width :: encImm imm
  | .cmpRmReg d w rm r => opDW 0x38#8 d w :: encRm r.toBits rm
  | .cmpRmImm rm imm => opW 0x80#8 imm.width :: (encRm 7#3 rm ++ encImm imm)
  | .cmpRmImmSx rm v => 0x83#8 :: (encRm 7#3 rm ++ [v])
  | .cmpAccImm imm => opW 0x3C#8 imm.width :: encImm imm
  | .incRm8 rm => 0xFE#8 :: encRm 0#3 rm
  | .incRm16 rm => 0xFF#8 :: encRm 0#3 rm
  | .incReg16 r => [opReg 0x40#8 r.toBits]
  | .decRm8 rm => 0xFE#8 :: encRm 1#3 rm
  | .decRm16 rm => 0xFF#8 :: encRm 1#3 rm
  | .decReg16 r => [opReg 0x48#8 r.toBits]
  | .aaa => [0x37#8]
  | .daa => [0x27#8]
  | .aas => [0x3F#8]
  | .das => [0x2F#8]
  | .aam => [0xD4#8, 0x0A#8]
  | .aad => [0xD5#8, 0x0A#8]
  | .negRm w rm => opW 0xF6#8 w :: encRm 3#3 rm
  | .mulRm w rm => opW 0xF6#8 w :: encRm 4#3 rm
  | .imulRm w rm => opW 0xF6#8 w :: encRm 5#3 rm
  | .divRm w rm => opW 0xF6#8 w :: encRm 6#3 rm
  | .idivRm w rm => opW 0xF6#8 w :: encRm 7#3 rm
  | .cbw => [0x98#8]
  | .cwd => [0x99#8]
  | .notRm w rm => opW 0xF6#8 w :: encRm 2#3 rm
  | .rolRm v w rm => opDW 0xD0#8 v w :: encRm 0#3 rm
  | .rorRm v w rm => opDW 0xD0#8 v w :: encRm 1#3 rm
  | .rclRm v w rm => opDW 0xD0#8 v w :: encRm 2#3 rm
  | .rcrRm v w rm => opDW 0xD0#8 v w :: encRm 3#3 rm
  | .shlRm v w rm => opDW 0xD0#8 v w :: encRm 4#3 rm
  | .shrRm v w rm => opDW 0xD0#8 v w :: encRm 5#3 rm
  | .sarRm v w rm => opDW 0xD0#8 v w :: encRm 7#3 rm
  | .andRmReg d w rm r => opDW 0x20#8 d w :: encRm r.toBits rm
  | .andRmImm rm imm => opW 0x80#8 imm.width :: (encRm 4#3 rm ++ encImm imm)
  | .andAccImm imm => opW 0x24#8 imm.width :: encImm imm
  | .orRmReg d w rm r => opDW 0x08#8 d w :: encRm r.toBits rm
  | .orRmImm rm imm => opW 0x80#8 imm.width :: (encRm 1#3 rm ++ encImm imm)
  | .orAccImm imm => opW 0x0C#8 imm.width :: encImm imm
  | .xorRmReg d w rm r => opDW 0x30#8 d w :: encRm r.toBits rm
  | .xorRmImm rm imm => opW 0x80#8 imm.width :: (encRm 6#3 rm ++ encImm imm)
  | .xorAccImm imm => opW 0x34#8 imm.width :: encImm imm
  | .testRmReg w rm r => opW 0x84#8 w :: encRm r.toBits rm
  | .testRmImm rm imm => opW 0xF6#8 imm.width :: (encRm 0#3 rm ++ encImm imm)
  | .testAccImm imm => opW 0xA8#8 imm.width :: encImm imm
  | .movs w => [opW 0xA4#8 w]
  | .cmps w => [opW 0xA6#8 w]
  | .scas w => [opW 0xAE#8 w]
  | .lods w => [opW 0xAC#8 w]
  | .stos w => [opW 0xAA#8 w]
  | .callNear d => 0xE8#8 :: encWord d
  | .callNearInd rm => 0xFF#8 :: encRm 2#3 rm
  | .callFar off seg => 0x9A#8 :: (encWord off ++ encWord seg)
  | .callFarInd m => 0xFF#8 :: encMem 3#3 m
  | .jmpNear d => 0xE9#8 :: encWord d
  | .jmpShort d => [0xEB#8, d]
  | .jmpNearInd rm => 0xFF#8 :: encRm 4#3 rm
  | .jmpFar off seg => 0xEA#8 :: (encWord off ++ encWord seg)
  | .jmpFarInd m => 0xFF#8 :: encMem 5#3 m
  | .ret => [0xC3#8]
  | .retImm n => 0xC2#8 :: encWord n
  | .retf => [0xCB#8]
  | .retfImm n => 0xCA#8 :: encWord n
  | .jo d => [0x70#8, d]
  | .jno d => [0x71#8, d]
  | .jb d => [0x72#8, d]
  | .jnb d => [0x73#8, d]
  | .je d => [0x74#8, d]
  | .jne d => [0x75#8, d]
  | .jbe d => [0x76#8, d]
  | .jnbe d => [0x77#8, d]
  | .js d => [0x78#8, d]
  | .jns d => [0x79#8, d]
  | .jp d => [0x7A#8, d]
  | .jnp d => [0x7B#8, d]
  | .jl d => [0x7C#8, d]
  | .jnl d => [0x7D#8, d]
  | .jle d => [0x7E#8, d]
  | .jnle d => [0x7F#8, d]
  | .loop d => [0xE2#8, d]
  | .loopz d => [0xE1#8, d]
  | .loopnz d => [0xE0#8, d]
  | .jcxz d => [0xE3#8, d]
  | .intN t => [0xCD#8, t]
  | .int3 => [0xCC#8]
  | .into => [0xCE#8]
  | .iret => [0xCF#8]
  | .clc => [0xF8#8]
  | .cmc => [0xF5#8]
  | .stc => [0xF9#8]
  | .cld => [0xFC#8]
  | .std => [0xFD#8]
  | .cli => [0xFA#8]
  | .sti => [0xFB#8]
  | .hlt => [0xF4#8]
  | .wait => [0x9B#8]
  | .esc hi lo rm => opReg 0xD8#8 hi :: encRm lo rm
  | .lock => [0xF0#8]
  | .nop => [0x90#8]
  | .overrideEs => [0x26#8]
  | .overrideCs => [0x2E#8]
  | .overrideSs => [0x36#8]
  | .overrideDs => [0x3E#8]
  | .rep z => [0xF2#8 ||| (BitVec.ofBool z).setWidth 8]
  | .refPushSp => [0xFF#8, 0xF4#8]
  | .resPopCs => [0x0F#8]
  | .res60 lo => [0x60#8 ||| lo.setWidth 8]
  | .res82 => [0x82#8]
  | .res83Or mod rm => [0x83#8, modRegRm mod 1#3 rm]
  | .res83And mod rm => [0x83#8, modRegRm mod 4#3 rm]
  | .res83Xor mod rm => [0x83#8, modRegRm mod 6#3 rm]
  | .res8C mod lo => [0x8C#8, mod ++ 1#1 ++ lo]
  | .res8E mod lo => [0x8E#8, mod ++ 1#1 ++ lo]
  | .resMovCs mod rm => [0x8E#8, modRegRm mod 1#3 rm]
  | .resLea reg rm => [0x8D#8, modRegRm 3#2 reg rm]
  | .resLes reg rm => [0xC4#8, modRegRm 3#2 reg rm]
  | .resLds reg rm => [0xC5#8, modRegRm 3#2 reg rm]
  | .res8F1 mod rm => [0x8F#8, modRegRm mod 1#3 rm]
  | .res8F2 mod rm => [0x8F#8, modRegRm mod 2#3 rm]
  | .res8F3 mod rm => [0x8F#8, modRegRm mod 3#3 rm]
  | .res8F4 mod rm => [0x8F#8, modRegRm mod 4#3 rm]
  | .res8F5 mod rm => [0x8F#8, modRegRm mod 5#3 rm]
  | .res8F6 mod rm => [0x8F#8, modRegRm mod 6#3 rm]
  | .res8F7 mod rm => [0x8F#8, modRegRm mod 7#3 rm]
  | .resC0 x => [0xC0#8 ||| x.setWidth 8]
  | .resC8 x => [0xC8#8 ||| x.setWidth 8]
  | .resC61 w mod rm => [opW 0xC6#8 w, modRegRm mod 1#3 rm]
  | .resC62 w mod rm => [opW 0xC6#8 w, modRegRm mod 2#3 rm]
  | .resC63 w mod rm => [opW 0xC6#8 w, modRegRm mod 3#3 rm]
  | .resC64 w mod rm => [opW 0xC6#8 w, modRegRm mod 4#3 rm]
  | .resC65 w mod rm => [opW 0xC6#8 w, modRegRm mod 5#3 rm]
  | .resC66 w mod rm => [opW 0xC6#8 w, modRegRm mod 6#3 rm]
  | .resC67 w mod rm => [opW 0xC6#8 w, modRegRm mod 7#3 rm]
  | .resD06 v w mod rm => [opDW 0xD0#8 v w, modRegRm mod 6#3 rm]
  | .resD4 b => [0xD4#8, b]
  | .resD5 b => [0xD5#8, b]
  | .resD6 => [0xD6#8]
  | .resF1 => [0xF1#8]
  | .resF61 w mod rm => [opW 0xF6#8 w, modRegRm mod 1#3 rm]
  | .resFE2 mod rm => [0xFE#8, modRegRm mod 2#3 rm]
  | .resFE3 mod rm => [0xFE#8, modRegRm mod 3#3 rm]
  | .resFE4 mod rm => [0xFE#8, modRegRm mod 4#3 rm]
  | .resFE5 mod rm => [0xFE#8, modRegRm mod 5#3 rm]
  | .resFE6 mod rm => [0xFE#8, modRegRm mod 6#3 rm]
  | .resFE7 mod rm => [0xFE#8, modRegRm mod 7#3 rm]
  | .resFF7 mod rm => [0xFF#8, modRegRm mod 7#3 rm]
  | .resCallFarReg rm => [0xFF#8, modRegRm 3#2 3#3 rm]
  | .resJmpFarReg rm => [0xFF#8, modRegRm 3#2 5#3 rm]

/-! ### The host's numbering -/

/-- The bytes of an instruction whose bits are `w`, `nbits` of them, numbered as spec/opcode_table.json numbers them: its
match and mask are 16-bit words `(byte0 << 8) | byte1` (R118), so the first byte is bits 15-8 and the second bits 7-0
(a row of 8 bits has its one byte in bits 7-0); later words follow the same way. Six bytes in all, the longest
instruction (R101). Log 20. -/
def tableBytes (nbits w : Nat) : List Byte :=
  if nbits ≤ 8 ∧ w < 256 then [BitVec.ofNat 8 w, 0#8, 0#8, 0#8, 0#8, 0#8]
  else [BitVec.ofNat 8 (w / 2 ^ 8), BitVec.ofNat 8 w, BitVec.ofNat 8 (w / 2 ^ 24), BitVec.ofNat 8 (w / 2 ^ 16),
        BitVec.ofNat 8 (w / 2 ^ 40), BitVec.ofNat 8 (w / 2 ^ 32)]

/-- The instruction the decoder reads from a table word. -/
def decodeTableWord (nbits w : Nat) : Option Instr :=
  match decode (tableBytes nbits w) with
  | .ok (i, _) => some i
  | .error _ => none

end Sys2Proof
end

