-- ==== Sys2Proof/Config.lean ====
section
/-! DEFINITION. Config.lean: what the spec leaves to the implementation or calls "any value" (93_implementation_defined.md).
Each constant here has no body: nothing proves what it is, so a claim holds whatever it is. The first argument is
always a draw number (`State.freeIx`), so that every draw may differ. -/

namespace Sys2Proof.Config

/-- An undefined one-bit value (R18, U1, U2, U3, U13, U15): draw `ix`, item `k` of that draw. Log 6. -/
opaque freeBit (ix k : Nat) : Bool

/-- An undefined 16-bit value (U2, U3, U20): draw `ix`, item `k` of that draw. Log 7, 8, 19. -/
opaque freeWord (ix k : Nat) : Word

/-- What a read of an absent or device address returns (R77, D17, U5). Log 4. -/
opaque openBus (ix addr : Nat) : Byte

/-- What a read of a port at which nothing is placed returns (R77, D17, U5). Log 5. -/
opaque openPort (ix port : Nat) : Byte

/-- Which of the values a prefetched and then overwritten instruction byte has had is executed (R84, D9, U6). Log 9. -/
opaque stalePick (ix addr : Nat) : Nat

end Sys2Proof.Config
end

