-- ==== Sys2Proof/Machine/State.lean ====
section
/-! DEFINITION. Machine/State.lean: the state of the MBL 8088 as plain data (10_state.md), the reasons a step can stop,
and the state right after reset (R50). -/

namespace Sys2Proof.Machine
open Sys2Proof

/-- The machine has no fault that stops it: every event is an interrupt that continues (R410), no memory access can fail
(R68, R78) and no instruction traps as illegal (R119). So no constructor: nothing raises one. -/
inductive Fault where
  deriving DecidableEq, Repr

/-- Why a step has no meaning. Every one is safe: the model stops where the spec tells it to give no meaning. -/
inductive Refusal where
  /-- Raised by `exec` alone, for an instruction without a meaning yet. Safe. -/
  | notModelled (mnemonic : String)
  /-- Raised by a reserved encoding (R119, D5, U10), with its row of the opcode table. Safe. -/
  | reservedEncoding (row : String)
  /-- Raised by FFH F4H, PUSH of SP as an r/m operand (R159, U12). Safe. -/
  | pushSpOperand
  /-- Raised by a step whose instruction is no string instruction and has a repeat prefix (R119, D22). Safe. -/
  | repeatBeforeNonString
  /-- Raised by an interrupt sequence whose stack frame overlaps the pointer it uses (R430, U14). Safe. -/
  | frameOverlapsPointer
  /-- Raised by a step whose instruction bytes end inside an instruction; a fetch of six bytes never meets it. Safe. -/
  | truncated
  deriving DecidableEq, Repr

/-- The eight general registers (R21). -/
structure Gpr where
  ax : Word
  cx : Word
  dx : Word
  bx : Word
  sp : Word
  bp : Word
  si : Word
  di : Word
  deriving DecidableEq, Repr

/-- The four segment registers (R25). -/
structure SegRegs where
  es : Word
  cs : Word
  ss : Word
  ds : Word
  deriving DecidableEq, Repr

/-- The nine flags of FLAGS (R28 to R37). The seven X positions hold no state (R38). -/
structure Flags where
  CF : Bool
  PF : Bool
  AF : Bool
  ZF : Bool
  SF : Bool
  TF : Bool
  IF : Bool
  DF : Bool
  OF : Bool
  deriving DecidableEq, Repr

/-- The prefix bytes met before the next instruction (R47). -/
structure Prefixes where
  /-- The segment override in force. -/
  override : Option SegReg
  /-- The repeat prefix in force, with its z bit. -/
  rep : Option Bool
  /-- A LOCK prefix has been met. -/
  lock : Bool
  deriving DecidableEq, Repr

/-- The input levels (R48, R49). -/
structure Pins where
  /-- RESET is HIGH. -/
  reset : Bool
  /-- INTR is HIGH. -/
  intr : Bool
  /-- The type byte an interrupt acknowledge would read now (R421). -/
  intType : Byte
  /-- TEST is LOW, that is active. -/
  testLow : Bool
  /-- Another master asks for the bus, and has it unless a locked instruction holds it off (R48, R82). -/
  hold : Bool
  deriving DecidableEq, Repr

/-- One sample of the environment (R49, D13): what it does before the next step. -/
structure Sample where
  /-- The input levels from now on. -/
  pins : Pins
  /-- A LOW to HIGH edge of NMI came (R44). -/
  nmiEdge : Bool
  /-- What other masters write to memory from now on: the bytes of each coming gap between two bus transfers of the CPU,
  in order (R80). -/
  busWrites : List (List (PAddr × Byte))
  /-- What these ports return from now on (`IoMap`). -/
  portUpdates : List (Word × Byte)
  deriving DecidableEq, Repr

/-- A byte the CPU gives to a device. -/
inductive BusWrite where
  /-- A write cycle in the I/O space (R72). -/
  | io (port : Word) (b : Byte)
  /-- A write cycle to a device address of `MemMap` (R77). -/
  | device (addr : PAddr) (b : Byte)
  deriving DecidableEq, Repr

/-- What the platform puts at an address: the range of `MemMap` (R8). -/
inductive MemKind where
  | ram
  | rom
  | device
  | absent
  deriving DecidableEq, Repr

/-- A run of addresses of one kind. -/
structure Region where
  base : Nat
  size : Nat
  kind : MemKind
  deriving DecidableEq, Repr

/-- The parameters of R8 that a step looks at. No step changes them. -/
structure Platform where
  /-- `FLAGS_FIXED_IMAGE`, looked at under the mask F02AH (R38). -/
  flagsImage : Word
  /-- `MN_MX` = MAX. -/
  maxMode : Bool
  /-- `MemMap`: the first region that covers an address gives its kind; an address none covers is RAM. -/
  memMap : List Region
  deriving DecidableEq, Repr

/-- Memory: the bytes that differ from `memDefault`, at strictly rising addresses below 2^20 (R60). -/
abbrev Memory := List Host.Cell

/-- What an address of memory that is not listed reads as. DESIGN CHOICE, unsafe: log 3. -/
def memDefault : Byte := 0#8

/-- The state of the machine. -/
structure State where
  /-- General registers (R21). -/
  gpr : Gpr
  /-- Segment registers (R25). -/
  sregs : SegRegs
  /-- Instruction pointer (R26). -/
  ip : Word
  /-- FLAGS (R28). -/
  flags : Flags
  /-- Memory (R60). -/
  mem : Memory
  /-- Overwritten values of bytes that may be in the instruction queue, newest first (R43, R84). Log 9. -/
  stale : List (PAddr × Byte)
  /-- NMI latch (R44). -/
  nmiLatch : Bool
  /-- Interrupt-delay bit (R45). -/
  delay : Bool
  /-- Halt state (R46). -/
  halted : Bool
  /-- Wait state of WAIT (R397, R446). -/
  waiting : Bool
  /-- Prefix state (R47). -/
  pfx : Prefixes
  /-- The repeated string instruction in progress (R292, R298). -/
  running : Option Instr
  /-- The model's own: offset of the first byte, prefixes included, of the instruction in progress. Log 14. -/
  start : Word
  /-- The model's own: IP_next of the WAIT that waits (R397). Log 14. -/
  afterWait : Word
  /-- The model's own: the instruction in progress raised an internal interrupt (R415 step 1). Log 31. -/
  entered : Bool
  /-- Input levels (R49). -/
  pins : Pins
  /-- The model's own: the environment's future samples. Log 10. -/
  inputs : List Sample
  /-- The model's own: what other masters write in the gaps to come, one entry a gap; held off by LOCK they wait (R80, R82).
  Log 15. -/
  busQueue : List (List (PAddr × Byte))
  /-- What a read of each port returns (`IoMap`, R72); the first entry of a port counts. Log 5. -/
  ports : List (Word × Byte)
  /-- The model's own: bytes given to devices, oldest first. Log 32. -/
  busLog : List BusWrite
  /-- Parameters (R8). -/
  plat : Platform
  /-- The model's own: number of the next free value. Log 6. -/
  freeIx : Nat
  deriving DecidableEq, Repr

/-- No prefix met (R47). -/
def Prefixes.none : Prefixes := { override := Option.none, rep := Option.none, lock := false }

/-- All nine flags 0 (R40, R50). -/
def Flags.clear : Flags :=
  { CF := false, PF := false, AF := false, ZF := false, SF := false, TF := false, IF := false, DF := false, OF := false }

/-- The machine right after reset (R50, R470). The general registers' value is log 2, the pins' log 11, the
parameters' logs 1, 4 and 25, the ports' log 5. -/
def State.reset : State where
  gpr := { ax := 0#16, cx := 0#16, dx := 0#16, bx := 0#16, sp := 0#16, bp := 0#16, si := 0#16, di := 0#16 }
  sregs := { es := 0#16, cs := 0xFFFF#16, ss := 0#16, ds := 0#16 }
  ip := 0#16
  flags := Flags.clear
  mem := []
  stale := []
  nmiLatch := false
  delay := false
  halted := false
  waiting := false
  pfx := Prefixes.none
  running := Option.none
  start := 0#16
  afterWait := 0#16
  entered := false
  pins := { reset := false, intr := false, intType := 0#8, testLow := true, hold := false }
  inputs := []
  busQueue := []
  ports := []
  busLog := []
  plat := { flagsImage := 0xF002#16, maxMode := false, memMap := [] }
  freeIx := 0

end Sys2Proof.Machine
end

