-- ==== Sys2Proof/Machine/Flags.lean ====
section
/-! DEFINITION. Machine/Flags.lean: how the flags are computed (00_scope.md R17, R18; 41_arithmetic.md R200; 42_logic.md
R271), and FLAGS as a word (10_state.md R28, R38). -/

namespace Sys2Proof.Machine
open Sys2Proof

/-! ### Results (R10, R17) -/

/-- The carry or borrow as a value of width `n`. -/
def carryIn (n : Nat) (c : Bool) : BitVec n := BitVec.ofNat n c.toNat

/-- `(a + b + c) mod 2^N`. -/
def addResult {n : Nat} (a b : BitVec n) (c : Bool) : BitVec n := a + b + carryIn n c

/-- `(a - b - c) mod 2^N`. -/
def subResult {n : Nat} (a b : BitVec n) (c : Bool) : BitVec n := a - b - carryIn n c

/-! ### Single flags (R17) -/

/-- PF: an even number of 1 bits in a byte. -/
def parityEven (b : Byte) : Bool :=
  !(b.getLsbD 0 ^^ b.getLsbD 1 ^^ b.getLsbD 2 ^^ b.getLsbD 3 ^^ b.getLsbD 4 ^^ b.getLsbD 5 ^^ b.getLsbD 6 ^^ b.getLsbD 7)

/-- `CF_add`. -/
def carryAdd {n : Nat} (a b : BitVec n) (c : Bool) : Bool := decide (2 ^ n ≤ a.toNat + b.toNat + c.toNat)

/-- `AF_add`. -/
def auxAdd {n : Nat} (a b : BitVec n) (c : Bool) : Bool := decide (16 ≤ a.toNat % 16 + b.toNat % 16 + c.toNat)

/-- `OF_add`, of operands and result. -/
def overflowAdd {n : Nat} (a b r : BitVec n) : Bool := a.msb == b.msb && r.msb != a.msb

/-- `CF_sub`. -/
def borrowSub {n : Nat} (a b : BitVec n) (c : Bool) : Bool := decide (a.toNat < b.toNat + c.toNat)

/-- `AF_sub`. -/
def auxSub {n : Nat} (a b : BitVec n) (c : Bool) : Bool := decide (a.toNat % 16 < b.toNat % 16 + c.toNat)

/-- `OF_sub`, of operands and result. -/
def overflowSub {n : Nat} (a b r : BitVec n) : Bool := a.msb != b.msb && r.msb != a.msb

/-! ### The flags of an operation -/

/-- `set_szp(r)` (R17): PF looks at the low byte whatever the width. -/
def Flags.setSzp {n : Nat} (f : Flags) (r : BitVec n) : Flags :=
  { f with SF := r.msb, ZF := r == 0, PF := parityEven (r.setWidth 8) }

/-- The flags of `add_op` (R200). -/
def Flags.afterAdd {n : Nat} (f : Flags) (a b : BitVec n) (c : Bool) : Flags :=
  { f.setSzp (addResult a b c) with
    CF := carryAdd a b c, AF := auxAdd a b c, OF := overflowAdd a b (addResult a b c) }

/-- The flags of `sub_op` (R200). -/
def Flags.afterSub {n : Nat} (f : Flags) (a b : BitVec n) (c : Bool) : Flags :=
  { f.setSzp (subResult a b c) with
    CF := borrowSub a b c, AF := auxSub a b c, OF := overflowSub a b (subResult a b c) }

/-- The flags of INC (R207): those of adding 1, but CF unchanged. -/
def Flags.afterInc {n : Nat} (f : Flags) (a : BitVec n) : Flags := { f.afterAdd a 1 false with CF := f.CF }

/-- The flags of DEC (R218): those of subtracting 1, but CF unchanged. -/
def Flags.afterDec {n : Nat} (f : Flags) (a : BitVec n) : Flags := { f.afterSub a 1 false with CF := f.CF }

/-- `logic_flags(r)` (R271), with the value AF happens to take. -/
def Flags.afterLogic {n : Nat} (f : Flags) (r : BitVec n) (af : Bool) : Flags :=
  { f.setSzp r with CF := false, OF := false, AF := af }

/-! ### FLAGS as a word (R28, R38) -/

/-- The mask of the seven X positions (R38). -/
def flagsXMask : Word := 0xF02A#16

/-- One flag at its bit position. -/
def flagBit (b : Bool) (k : Nat) : Word := (BitVec.ofBool b).setWidth 16 <<< k

/-- The word stored for FLAGS: the nine flags in their positions, the X positions from `FLAGS_FIXED_IMAGE` (R38). -/
def Flags.toWord (f : Flags) (image : Word) : Word :=
  (image &&& flagsXMask) ||| flagBit f.CF 0 ||| flagBit f.PF 2 ||| flagBit f.AF 4 ||| flagBit f.ZF 6 ||| flagBit f.SF 7 |||
    flagBit f.TF 8 ||| flagBit f.IF 9 ||| flagBit f.DF 10 ||| flagBit f.OF 11

/-- The nine flags of a loaded word; its X positions are ignored (R38, R179). -/
def Flags.ofWord (v : Word) : Flags :=
  { CF := v.getLsbD 0, PF := v.getLsbD 2, AF := v.getLsbD 4, ZF := v.getLsbD 6, SF := v.getLsbD 7, TF := v.getLsbD 8,
    IF := v.getLsbD 9, DF := v.getLsbD 10, OF := v.getLsbD 11 }

/-- SAHF: five flags of a byte, the other four unchanged (R177). -/
def Flags.loadLow (f : Flags) (b : Byte) : Flags :=
  { f with SF := b.getLsbD 7, ZF := b.getLsbD 6, AF := b.getLsbD 4, PF := b.getLsbD 2, CF := b.getLsbD 0 }

/-! ### The flags in the state -/

/-- The flags replaced. -/
def State.setFlags (s : State) (f : Flags) : State := { s with flags := f }

/-- The next free value's number (R18). -/
def State.tick (s : State) : State := { s with freeIx := s.freeIx + 1 }

/-- The undefined value of the flag at bit position `k` of FLAGS in the current draw (U1). -/
def State.freeFlag (s : State) (k : Nat) : Bool := Config.freeBit s.freeIx k

/-- A two-operand operation at every width: its result, and the state with the flags it writes. -/
abbrev AluOp := (n : Nat) → BitVec n → BitVec n → State → BitVec n × State

/-- `add_op(N, a, b, 0)` (R200). -/
def aluAdd : AluOp := fun _ a b s => (addResult a b false, s.setFlags (s.flags.afterAdd a b false))

/-- `add_op(N, a, b, CF)` (R204). -/
def aluAdc : AluOp := fun _ a b s => (addResult a b s.flags.CF, s.setFlags (s.flags.afterAdd a b s.flags.CF))

/-- `sub_op(N, a, b, 0)` (R200). -/
def aluSub : AluOp := fun _ a b s => (subResult a b false, s.setFlags (s.flags.afterSub a b false))

/-- `sub_op(N, a, b, CF)` (R215). -/
def aluSbb : AluOp := fun _ a b s => (subResult a b s.flags.CF, s.setFlags (s.flags.afterSub a b s.flags.CF))

/-- `logic_flags(r)` on the state: AF is a free value (R271, U1; log 6). -/
def State.logicFlags {n : Nat} (s : State) (r : BitVec n) : State :=
  (s.setFlags (s.flags.afterLogic r (s.freeFlag 4))).tick

/-- Bitwise and with `logic_flags` (R259). -/
def aluAnd : AluOp := fun _ a b s => (a &&& b, s.logicFlags (a &&& b))

/-- Bitwise or with `logic_flags` (R265). -/
def aluOr : AluOp := fun _ a b s => (a ||| b, s.logicFlags (a ||| b))

/-- Bitwise exclusive or with `logic_flags` (R268). -/
def aluXor : AluOp := fun _ a b s => (a ^^^ b, s.logicFlags (a ^^^ b))

/-- All six arithmetic flags undefined (R233, R234, U2; log 7). -/
def State.freeArithFlags (s : State) : State :=
  (s.setFlags { s.flags with
    CF := s.freeFlag 0, PF := s.freeFlag 2, AF := s.freeFlag 4, ZF := s.freeFlag 6, SF := s.freeFlag 7,
    OF := s.freeFlag 11 }).tick

end Sys2Proof.Machine
end

