-- ==== Sys2Proof/Machine/Ops.lean ====
section
/-! DEFINITION. Machine/Ops.lean: the named operations every instruction is written over (00_scope.md R12 to R16): memory,
bus, ports, registers, stack, transfers of control, and the one interrupt sequence with its return (60_exceptions.md). -/

namespace Sys2Proof.Machine
open Sys2Proof

/-- What a step or an instruction answers. -/
abbrev Result := Host.Outcome State Fault Refusal

/-- Go on from a next state; a stop stays. -/
def andThen (o : Result) (k : State → Result) : Result :=
  match o with
  | .next s => k s
  | .fault f => .fault f
  | .refused r => .refused r

/-! ### The memory list (R60) -/

/-- The byte at an address: the first entry for it, else `memDefault` (log 3). -/
def memRead : Memory → Nat → Byte
  | [], _ => memDefault
  | c :: rest, a => if c.1 = a then c.2 else memRead rest a

/-- Every entry of an address taken out. -/
def memErase : Memory → Nat → Memory
  | [], _ => []
  | c :: rest, a => if c.1 = a then memErase rest a else c :: memErase rest a

/-- An entry put in at its place in rising order. -/
def memInsert : Memory → Nat → Byte → Memory
  | [], a, b => [(a, b)]
  | c :: rest, a, b => if c.1 < a then c :: memInsert rest a b else (a, b) :: c :: rest

/-- A byte written, in canonical form: writing `memDefault` takes the entry out. -/
def memWrite (m : Memory) (a : Nat) (b : Byte) : Memory :=
  if b = memDefault then memErase m a else memInsert (memErase m a) a b

/-- The canonical form from an address on: strictly rising addresses of R60's space, no entry equal to `memDefault`. -/
def Memory.wfFrom : Nat → Memory → Bool
  | _, [] => true
  | lo, c :: rest => decide (lo ≤ c.1) && decide (c.1 < 2 ^ 20) && (c.2 != memDefault) && Memory.wfFrom (c.1 + 1) rest

/-- The canonical form of memory. -/
def Memory.wf (m : Memory) : Bool := Memory.wfFrom 0 m

/-! ### The memory bus (R13, R62, R66 to R69, R77, R84) -/

/-- `phys(seg, off)` (R62): wraps modulo 2^20. -/
def phys (seg off : Word) : PAddr := seg.setWidth 20 <<< 4 + off.setWidth 20

/-- What `MemMap` puts at an address (R8, R77; log 4). -/
def kindAt : List Region → Nat → MemKind
  | [], _ => .ram
  | r :: rest, a => if r.base ≤ a ∧ a < r.base + r.size then r.kind else kindAt rest a

/-- What stands at a physical address. -/
def State.kindOf (s : State) (a : PAddr) : MemKind := kindAt s.plat.memMap a.toNat

/-- `MemRead(addr, 1)` (R13); an absent or device address answers any value (D17; log 4). -/
def State.busRead (s : State) (a : PAddr) : Byte :=
  match s.kindOf a with
  | .ram => memRead s.mem a.toNat
  | .rom => memRead s.mem a.toNat
  | .device => Config.openBus s.freeIx a.toNat
  | .absent => Config.openBus s.freeIx a.toNat

/-- The offset of the first byte that the queue may hold: IP, which is IP_next while an instruction executes (R27, R84);
while WAIT waits, IP_next of the WAIT. DESIGN CHOICE for writes of other masters: log 28. -/
def State.queueStart (s : State) : Word := if s.waiting then s.afterWait else s.ip

/-- The address is one of the five of R84 that the queue may hold, at offsets IP_next to IP_next + 4. That the five are
counted from `queueStart` for another master's write too is a DESIGN CHOICE: log 28. -/
def State.mayBePrefetched (s : State) (a : PAddr) : Bool :=
  a == phys s.sregs.cs s.queueStart || a == phys s.sregs.cs (s.queueStart + 1) ||
    a == phys s.sregs.cs (s.queueStart + 2) || a == phys s.sregs.cs (s.queueStart + 3) ||
    a == phys s.sregs.cs (s.queueStart + 4)

/-- A byte of RAM written; the value it had is remembered where the queue may hold it (R84; log 9). -/
def State.ramWrite (s : State) (a : PAddr) (b : Byte) : State :=
  { s with
    mem := memWrite s.mem a.toNat b
    stale := if s.mayBePrefetched a && memRead s.mem a.toNat != b then (a, memRead s.mem a.toNat) :: s.stale else s.stale }

/-- `MemWrite(addr, 1, v)` (R13): ROM and absent addresses drop it (D17), a device is given it (log 4, 32). -/
def State.busWrite (s : State) (a : PAddr) (b : Byte) : State :=
  match s.kindOf a with
  | .ram => s.ramWrite a b
  | .rom => s
  | .device => { s with busLog := s.busLog ++ [.device a b] }
  | .absent => s

/-- `Read8` (R13). -/
def State.read8 (s : State) (seg off : Word) : Byte := s.busRead (phys seg off)

/-- `Read16` (R13, R69): low byte first, the second byte at offset + 1 modulo 2^16 of the same segment. -/
def State.read16 (s : State) (seg off : Word) : Word :=
  wordOf (s.busRead (phys seg (off + 1))) (s.busRead (phys seg off))

/-- `Write8` (R13). -/
def State.write8 (s : State) (seg off : Word) (b : Byte) : State := s.busWrite (phys seg off) b

/-- `Write16` (R13, R69). -/
def State.write16 (s : State) (seg off v : Word) : State :=
  (s.busWrite (phys seg off) (lowByte v)).busWrite (phys seg (off + 1)) (highByte v)

/-- `ReadW` (R13). -/
def State.readW (s : State) (w : Width) (seg off : Word) : BitVec w.bits :=
  match w with
  | .byte => s.read8 seg off
  | .word => s.read16 seg off

/-- `WriteW` (R13). -/
def State.writeW (s : State) (w : Width) (seg off : Word) (v : BitVec w.bits) : State :=
  match w, v with
  | .byte, v => s.write8 seg off v
  | .word, v => s.write16 seg off v

/-! ### Other masters (R48, R71, R80, R82, R484) -/

/-- Other masters are held off: a LOCK prefix is in force (R82). In minimum mode it may hold or not (U15; log 25). -/
def State.busLocked (s : State) : Bool := s.pfx.lock && (s.plat.maxMode || Config.freeBit s.freeIx 16)

/-- One byte that another master writes; it reaches RAM only (log 4, 28). -/
def State.masterWrite (s : State) (a : PAddr) (b : Byte) : State :=
  match s.kindOf a with
  | .ram => s.ramWrite a b
  | .rom => s
  | .device => s
  | .absent => s

/-- Bytes that other masters write, in order. -/
def State.masterWrites (s : State) : List (PAddr × Byte) → State
  | [] => s
  | c :: rest => (s.masterWrite c.1 c.2).masterWrites rest

/-- A gap between two bus transfers of the CPU: other masters write what they have for it, unless a locked instruction holds
them off (R80, R82). The bytes of a word are one transfer: no gap lies between them (R71). Log 15. -/
def State.yieldBus (s : State) : State :=
  if s.busLocked then s
  else
    match s.busQueue with
    | [] => s
    | now :: later => { (s.masterWrites now) with busQueue := later }

/-! ### The I/O space (R13, R72) -/

/-- What the platform answers at a port, where it answers (log 5). -/
def portLookup : List (Word × Byte) → Word → Option Byte
  | [], _ => none
  | c :: rest, p => if c.1 = p then some c.2 else portLookup rest p

/-- `IoRead8` (R13); a port with nothing placed there answers any value (D17). -/
def State.ioRead8 (s : State) (port : Word) : Byte :=
  match portLookup s.ports port with
  | some b => b
  | none => Config.openPort s.freeIx port.toNat

/-- `IoRead16`: port, then port + 1 modulo 2^16, low byte first (R72, D15). -/
def State.ioRead16 (s : State) (port : Word) : Word := wordOf (s.ioRead8 (port + 1)) (s.ioRead8 port)

/-- `IoWrite8` (R13; log 32). -/
def State.ioWrite8 (s : State) (port : Word) (b : Byte) : State := { s with busLog := s.busLog ++ [.io port b] }

/-- `IoWrite16`: low byte to port, high byte to port + 1 modulo 2^16 (R72, D15). -/
def State.ioWrite16 (s : State) (port v : Word) : State :=
  (s.ioWrite8 port (lowByte v)).ioWrite8 (port + 1) (highByte v)

/-- An I/O read of the operand width. -/
def State.ioReadW (s : State) (w : Width) (port : Word) : BitVec w.bits :=
  match w with
  | .byte => s.ioRead8 port
  | .word => s.ioRead16 port

/-- An I/O write of the operand width. -/
def State.ioWriteW (s : State) (w : Width) (port : Word) (v : BitVec w.bits) : State :=
  match w, v with
  | .byte, v => s.ioWrite8 port v
  | .word, v => s.ioWrite16 port v

/-! ### Registers (R12, R21, R22, R25) -/

/-- `reg16[r]` (R21). -/
def Gpr.get (g : Gpr) : RegCode → Word
  | .r000 => g.ax
  | .r001 => g.cx
  | .r010 => g.dx
  | .r011 => g.bx
  | .r100 => g.sp
  | .r101 => g.bp
  | .r110 => g.si
  | .r111 => g.di

/-- `reg16[r] <- v`. -/
def Gpr.set (g : Gpr) (r : RegCode) (v : Word) : Gpr :=
  match r with
  | .r000 => { g with ax := v }
  | .r001 => { g with cx := v }
  | .r010 => { g with dx := v }
  | .r011 => { g with bx := v }
  | .r100 => { g with sp := v }
  | .r101 => { g with bp := v }
  | .r110 => { g with si := v }
  | .r111 => { g with di := v }

/-- `reg8[r]`: a half of AX, CX, DX or BX (R22). -/
def Gpr.getByte (g : Gpr) : RegCode → Byte
  | .r000 => lowByte g.ax
  | .r001 => lowByte g.cx
  | .r010 => lowByte g.dx
  | .r011 => lowByte g.bx
  | .r100 => highByte g.ax
  | .r101 => highByte g.cx
  | .r110 => highByte g.dx
  | .r111 => highByte g.bx

/-- `reg8[r] <- b`: the other half stays (R22). -/
def Gpr.setByte (g : Gpr) (r : RegCode) (b : Byte) : Gpr :=
  match r with
  | .r000 => { g with ax := wordOf (highByte g.ax) b }
  | .r001 => { g with cx := wordOf (highByte g.cx) b }
  | .r010 => { g with dx := wordOf (highByte g.dx) b }
  | .r011 => { g with bx := wordOf (highByte g.bx) b }
  | .r100 => { g with ax := wordOf b (lowByte g.ax) }
  | .r101 => { g with cx := wordOf b (lowByte g.cx) }
  | .r110 => { g with dx := wordOf b (lowByte g.dx) }
  | .r111 => { g with bx := wordOf b (lowByte g.bx) }

/-- `reg(w, r)` (R12). -/
def Gpr.getW (g : Gpr) (w : Width) (r : RegCode) : BitVec w.bits :=
  match w with
  | .byte => g.getByte r
  | .word => g.get r

/-- `reg(w, r) <- v`. -/
def Gpr.setW (g : Gpr) (w : Width) (r : RegCode) (v : BitVec w.bits) : Gpr :=
  match w, v with
  | .byte, v => g.setByte r v
  | .word, v => g.set r v

/-- `sreg[s]` (R25). -/
def SegRegs.get (g : SegRegs) : SegReg → Word
  | .es => g.es
  | .cs => g.cs
  | .ss => g.ss
  | .ds => g.ds

/-- `sreg[s] <- v`. -/
def SegRegs.set (g : SegRegs) (r : SegReg) (v : Word) : SegRegs :=
  match r with
  | .es => { g with es := v }
  | .cs => { g with cs := v }
  | .ss => { g with ss := v }
  | .ds => { g with ds := v }

/-- A 16-bit register written. -/
def State.setReg (s : State) (r : RegCode) (v : Word) : State := { s with gpr := s.gpr.set r v }

/-- A register of the operand width written. -/
def State.setRegW (s : State) (w : Width) (r : RegCode) (v : BitVec w.bits) : State :=
  { s with gpr := s.gpr.setW w r v }

/-- A segment register written. -/
def State.setSreg (s : State) (r : SegReg) (v : Word) : State := { s with sregs := s.sregs.set r v }

/-- The segment a data reference uses: the override in force, else the default (R63, R64). -/
def State.segOr (s : State) (dflt : SegReg) : Word := s.sregs.get (s.pfx.override.getD dflt)

/-- The interrupt-delay bit set (R45, R428). -/
def State.setDelay (s : State) : State := { s with delay := true }

/-! ### The stack (R14) -/

/-- SP written. -/
def State.setSp (s : State) (v : Word) : State := s.setReg .r100 v

/-- An amount added to SP, modulo 2^16. -/
def State.moveSp (s : State) (d : Word) : State := s.setSp (s.gpr.sp + d)

/-- `push16(v)` (R14): SP goes down by 2 first; the word goes to SS:SP, never overridden (R63). -/
def State.push16 (s : State) (v : Word) : State :=
  (s.setSp (s.gpr.sp - 2)).write16 s.sregs.ss (s.gpr.sp - 2) v

/-- The word `pop16()` returns. -/
def State.stackTop (s : State) : Word := s.read16 s.sregs.ss s.gpr.sp

/-- The state after `pop16()`: SP goes up by 2. -/
def State.popped (s : State) : State := s.moveSp 2

/-! ### Transfers of control (R26, R83) -/

/-- IP written by a taken transfer within the segment; the queue is emptied (R339). -/
def State.jumpNear (s : State) (ip : Word) : State := { s with ip := ip, stale := [] }

/-- CS and IP written by an intersegment transfer; the queue is emptied. -/
def State.jumpFar (s : State) (cs ip : Word) : State :=
  { s with sregs := { s.sregs with cs := cs }, ip := ip, stale := [] }

/-- `jump_rel8(cond)` (R339): `s.ip` is IP_next. -/
def State.jumpRel8 (s : State) (cond : Bool) (disp : Byte) : State :=
  if cond then s.jumpNear (s.ip + sext16 disp) else s

/-! ### The interrupt sequence (R410, R430, R431) -/

/-- The word of the pointer for type `t` that lies `k` bytes into it, read at physical addresses (R75). -/
def State.pointerWord (s : State) (t : Byte) (k : Nat) : Word :=
  wordOf (s.busRead (BitVec.ofNat 20 (4 * t.toNat + k + 1))) (s.busRead (BitVec.ofNat 20 (4 * t.toNat + k)))

/-- The byte `k` below the top of the stack lies in the pointer of type `t`. -/
def State.frameByteInPointer (s : State) (t : Byte) (k : Word) : Bool :=
  decide (4 * t.toNat ≤ (phys s.sregs.ss (s.gpr.sp - k)).toNat ∧ (phys s.sregs.ss (s.gpr.sp - k)).toNat < 4 * t.toNat + 4)

/-- The six bytes of the frame meet the four bytes of the pointer (R430, U14; log 16). -/
def State.frameOverlaps (s : State) (t : Byte) : Bool :=
  s.frameByteInPointer t 1 || s.frameByteInPointer t 2 || s.frameByteInPointer t 3 || s.frameByteInPointer t 4 ||
    s.frameByteInPointer t 5 || s.frameByteInPointer t 6

/-- IF and TF cleared (R430 step 3). -/
def Flags.masked (f : Flags) : Flags := { f with IF := false, TF := false }

/-- The three words of the frame pushed, IF and TF cleared (R430 steps 1 to 5), with a gap before each push (R80). -/
def State.pushFrame (s : State) (ret : Word) : State :=
  (((((s.yieldBus.push16 (s.flags.toWord s.plat.flagsImage)).setFlags s.flags.masked).yieldBus.push16
    s.sregs.cs)).yieldBus.push16 ret)

/-- Control at CS:IP of the pointer, the queue emptied (R430 steps 6, 7), with a gap before each word read (R80). -/
def State.throughPointer (s : State) (t : Byte) : State :=
  s.yieldBus.yieldBus.jumpFar (s.yieldBus.yieldBus.pointerWord t 2) (s.yieldBus.pointerWord t 0)

/-- The halt state, the wait state, the repetition and the prefixes left behind (R396, R397, R298, R482). -/
def State.leaveIdle (s : State) : State :=
  { s with halted := false, waiting := false, running := none, pfx := Prefixes.none }

/-- The lock of a LOCK prefix is over (R82). -/
def State.endLock (s : State) : State := { s with pfx := { s.pfx with lock := false } }

/-- Steps 1 to 7 of `Sequence(t, ret)` (R430), or the refusal of U14. -/
def enter (t : Byte) (ret : Word) (s : State) : Result :=
  if s.frameOverlaps t then .refused .frameOverlapsPointer
  else .next (((s.tick.pushFrame ret).throughPointer t).leaveIdle)

/-- The NMI latch cleared (R44). -/
def State.clearNmi (s : State) : State := { s with nmiLatch := false }

/-- `Sequence(t, ret)` with its chaining steps 8 and 9 (R430). `temp` is TEMP: TF as it was when the instruction began (R425,
D26), and false for a single step sequence, in which TEMP is ignored. Step 8 hands it on to the NMI's sequence, so that a
single step due with both is not lost and its routine runs first (R416; log 18). -/
def sequence (t : Byte) (ret : Word) (temp : Bool) (s : State) : Result :=
  andThen (enter t ret s) fun s1 =>
    andThen (if s1.nmiLatch then enter 2 s1.ip s1.clearNmi else .next s1) fun s2 =>
      if temp then enter 1 s2.ip s2 else .next s2

/-- `raise Interrupt(t)` of an instruction (R16, R415 step 1): `s.ip` is IP_next. No instruction that raises an interrupt
has changed TF. -/
def raise (t : Byte) (s : State) : Result :=
  andThen (sequence t s.ip s.flags.TF s) fun s1 => .next { s1 with entered := true }

/-- Return from an interrupt (R363, R435): IP, CS, FLAGS popped, with a gap before the second and the third pop (R80). -/
def State.returnFromInterrupt (s : State) : State :=
  let s2 := s.yieldBus
  let s3 := s2.yieldBus
  (s3.popped.popped.popped.jumpFar s2.popped.stackTop s.stackTop).setFlags (Flags.ofWord s3.popped.popped.stackTop)

/-! ### Recognition of interrupts (R415, R425 to R428) -/

/-- Steps 3 to 6 of R415. `tf`: TF when the instruction began. `idle`: the halt state or WAIT goes on, which a single step
does not end by itself (R396, R397; log 24). `ret`: where the interrupted program resumes. The prefix state, LOCK too, is
lost when the sequence starts (R47, R482; log 25). -/
def recognise (tf idle : Bool) (ret : Word) (s : State) : Result :=
  if s.nmiLatch then sequence 2 ret tf s.leaveIdle.clearNmi
  else if s.pins.intr && s.flags.IF then sequence s.pins.intType ret tf s.leaveIdle
  else if tf && !idle then sequence 1 ret false s.leaveIdle
  else .next s

/-- The prefix bytes (R115). -/
def Instr.isPrefix : Instr → Bool
  | .lock => true
  | .overrideEs => true
  | .overrideCs => true
  | .overrideSs => true
  | .overrideDs => true
  | .rep _ => true
  | _ => false

/-- The string instructions (R290). -/
def Instr.isString : Instr → Bool
  | .movs _ => true
  | .cmps _ => true
  | .scas _ => true
  | .lods _ => true
  | .stos _ => true
  | _ => false

/-- The instruction in progress goes on in the next step: a repeated string instruction (R292) or WAIT (R397). -/
def State.unfinished (s : State) : Bool := s.running.isSome || s.waiting

/-- The prefix state after `i`: kept by a prefix and by an instruction that goes on, else cleared (R47). -/
def State.settlePrefixes (s : State) (i : Instr) : State :=
  if Instr.isPrefix i || s.unfinished then s else { s with pfx := Prefixes.none }

/-- The offset at which the program resumes: IP, which is the WAIT's own while WAIT waits (R397); the byte before the opcode
of a string instruction that goes on (R298). -/
def State.resumeAt (s : State) : Word := if s.running.isSome then s.ip - 2 else s.ip

/-- The end of `i`, or of a turn of it (R415). `tf`: TF when it began. -/
def boundary (tf : Bool) (i : Instr) (s : State) : Result :=
  if s.entered then .next { s with entered := false }
  else if s.delay then .next { (s.settlePrefixes i) with delay := false }
  else recognise tf s.waiting s.resumeAt (s.settlePrefixes i)

/-- A repeat prefix is in force before an instruction that is no string instruction (R119, D22; log 26). -/
def State.badRepeat (s : State) (i : Instr) : Bool := s.pfx.rep.isSome && !Instr.isPrefix i && !Instr.isString i

/-! ### Fetching (R27, R83, R84) -/

/-- The values a byte that may be in the queue has had (R84). -/
def staleAt : List (PAddr × Byte) → PAddr → List Byte
  | [], _ => []
  | c :: rest, a => if c.1 = a then c.2 :: staleAt rest a else staleAt rest a

/-- The byte the queue delivers from an address: memory's, or an overwritten value of it (R84, D9, U6; log 9). -/
def State.fetchAt (s : State) (a : PAddr) : Byte :=
  match staleAt s.stale a with
  | [] => s.busRead a
  | old => (s.busRead a :: old).getD (Config.stalePick s.freeIx a.toNat % (old.length + 1)) (s.busRead a)

/-- `Fetch8()` `k` bytes further on (R13, R27). -/
def State.fetchByte (s : State) (k : Word) : Byte := s.fetchAt (phys s.sregs.cs (s.ip + k))

/-- The next six bytes: no instruction is longer (R101). -/
def State.fetchBytes (s : State) : List Byte :=
  [s.fetchByte 0, s.fetchByte 1, s.fetchByte 2, s.fetchByte 3, s.fetchByte 4, s.fetchByte 5]

/-- One byte of the stream taken. -/
def State.takeByte (s : State) : State :=
  { s with ip := s.ip + 1, stale := s.stale.filter fun c => c.1 != phys s.sregs.cs s.ip }

/-- `n` bytes of the stream taken. -/
def State.takeBytes (s : State) : Nat → State
  | 0 => s
  | n + 1 => s.takeByte.takeBytes n

/-- Where the instruction in progress starts, noted at its first byte (log 14). -/
def State.noteStart (s : State) : State := { s with start := if s.pfx = Prefixes.none then s.ip else s.start }

/-- The state an instruction of `n` bytes executes in: IP is IP_next (R27). A gap lies between the last byte fetched and the
first data transfer (R80). -/
def State.fetched (s : State) (n : Nat) : State := (s.noteStart.takeBytes n).tick.yieldBus

/-! ### Repeated string instructions (R292) -/

/-- One element of string instruction `i`, under a repeat prefix or without; `compares`: CMPS or SCAS. Log 13. -/
def repeated (i : Instr) (compares : Bool) (element : State → State) (s : State) : Result :=
  match s.pfx.rep with
  | none => .next { (element s) with running := none }
  | some z =>
    if s.gpr.cx = 0 then .next { s with running := none }
    else
      let t := (element s).setReg .r001 (s.gpr.cx - 1)
      if t.gpr.cx = 0 || (compares && t.flags.ZF != z) then .next { t with running := none }
      else .next { t with running := some i }

/-! ### The environment (R49, R470) -/

/-- One sample of the environment taken, if one is left; a new draw begins (D13; log 10). -/
def State.sampleInputs (s : State) : State :=
  match s.inputs with
  | [] => s.tick
  | e :: rest =>
    { s.tick with
      inputs := rest, pins := e.pins, nmiLatch := s.nmiLatch || e.nmiEdge, busQueue := s.busQueue ++ e.busWrites,
      ports := e.portUpdates ++ s.ports }

/-- RESET is HIGH: the present activity is abandoned and nothing is executed (R470). -/
def State.dormant (s : State) : State := { s.leaveIdle with delay := false, entered := false, nmiLatch := false }

/-- The general registers after RESET: any values (U20; log 19). -/
def freeGpr (ix : Nat) : Gpr :=
  { ax := Config.freeWord ix 0, cx := Config.freeWord ix 1, dx := Config.freeWord ix 2, bx := Config.freeWord ix 3,
    sp := Config.freeWord ix 4, bp := Config.freeWord ix 5, si := Config.freeWord ix 6, di := Config.freeWord ix 7 }

/-- RESET goes LOW: the reset values, memory and the outside world as they are (R50, R470). -/
def State.afterReset (s : State) : State :=
  { State.reset with
    gpr := freeGpr s.freeIx, mem := s.mem, pins := s.pins, inputs := s.inputs, busQueue := s.busQueue, ports := s.ports,
    busLog := s.busLog, plat := s.plat, freeIx := s.freeIx + 1 }

end Sys2Proof.Machine
end

