-- ==== Sys2Proof/Machine/Operands.lean ====
section
/-! DEFINITION. Machine/Operands.lean: every operand form (30_encoding.md R104 to R111) and the shapes of instruction the
families share. -/

namespace Sys2Proof.Machine
open Sys2Proof

/-! ### Effective address and segment (R107 to R109) -/

/-- The register part of the effective address. -/
def EaBase.value (g : Gpr) : EaBase → Word
  | .bxSi => g.bx + g.si
  | .bxDi => g.bx + g.di
  | .bpSi => g.bp + g.si
  | .bpDi => g.bp + g.di
  | .si => g.si
  | .di => g.di
  | .bp => g.bp
  | .bx => g.bx

/-- The default segment: SS where the sum contains BP, else DS (R108). -/
def EaBase.segment : EaBase → SegReg
  | .bxSi => .ds
  | .bxDi => .ds
  | .bpSi => .ss
  | .bpDi => .ss
  | .si => .ds
  | .di => .ds
  | .bp => .ss
  | .bx => .ds

/-- `EA`, modulo 2^16 (R107, R109). -/
def Mem.address (g : Gpr) : Mem → Word
  | .plain b => EaBase.value g b
  | .direct a => a
  | .disp8 b d => EaBase.value g b + sext16 d
  | .disp16 b d => EaBase.value g b + d

/-- The default segment of a memory operand (R108). -/
def Mem.segment : Mem → SegReg
  | .plain b => EaBase.segment b
  | .direct _ => .ds
  | .disp8 b _ => EaBase.segment b
  | .disp16 b _ => EaBase.segment b

/-- `EA` of a memory operand. -/
def State.ea (s : State) (m : Mem) : Word := Mem.address s.gpr m

/-- `seg_eff` of a memory operand (R64, R108). -/
def State.segEff (s : State) (m : Mem) : Word := s.segOr (Mem.segment m)

/-! ### r/m operands (R110) -/

/-- `rm_read(w)`. -/
def State.rmRead (s : State) (w : Width) : RM → BitVec w.bits
  | .reg r => s.gpr.getW w r
  | .mem m => s.readW w (s.segEff m) (s.ea m)

/-- `rm_write(w, v)`. -/
def State.rmWrite (s : State) (w : Width) (rm : RM) (v : BitVec w.bits) : State :=
  match rm with
  | .reg r => s.setRegW w r v
  | .mem m => s.writeW w (s.segEff m) (s.ea m) v

/-- The gap between the read of an r/m operand and the next transfer, the write of a read-modify-write among them: another
master may take the bus there (R71, R80, R484). A register has no transfer. -/
def State.operandGap (s : State) : RM → State
  | .reg _ => s
  | .mem _ => s.yieldBus

/-- The two words of a far pointer in memory: the offset word at EA (R70). -/
def State.farOffset (s : State) (m : Mem) : Word := s.read16 (s.segEff m) (s.ea m)

/-- The segment word at EA + 2 modulo 2^16, after the gap between the two words (R80). -/
def State.farSegment (s : State) (m : Mem) : Word := s.yieldBus.read16 (s.segEff m) (s.ea m + 2)

/-- The value of immediate data. -/
def Imm.value : (imm : Imm) → BitVec imm.width.bits
  | .byte v => v
  | .word v => v

/-! ### Shapes of two-operand instructions (R200, R201 to R206, R259 to R261) -/

/-- Operation of r/m and register: `d` says which is the destination. -/
def aluOnRmReg (op : AluOp) (d : Bool) (w : Width) (rm : RM) (r : RegCode) (s : State) : State :=
  if d then
    let x := op w.bits (s.gpr.getW w r) (s.rmRead w rm) s
    x.2.setRegW w r x.1
  else
    let x := op w.bits (s.rmRead w rm) (s.gpr.getW w r) (s.operandGap rm)
    x.2.rmWrite w rm x.1

/-- Operation of r/m and an immediate of the same width. -/
def aluOnRmImm (op : AluOp) (w : Width) (rm : RM) (imm : BitVec w.bits) (s : State) : State :=
  let x := op w.bits (s.rmRead w rm) imm (s.operandGap rm)
  x.2.rmWrite w rm x.1

/-- Operation of the accumulator and an immediate. -/
def aluOnAccImm (op : AluOp) (w : Width) (imm : BitVec w.bits) (s : State) : State :=
  let x := op w.bits (s.gpr.getW w .r000) imm s
  x.2.setRegW w .r000 x.1

/-- The flags alone: CMP, TEST (R222, R262). -/
def flagsOnRmReg (op : AluOp) (d : Bool) (w : Width) (rm : RM) (r : RegCode) (s : State) : State :=
  if d then (op w.bits (s.gpr.getW w r) (s.rmRead w rm) s).2 else (op w.bits (s.rmRead w rm) (s.gpr.getW w r) s).2

/-- The flags alone, of r/m and an immediate. -/
def flagsOnRmImm (op : AluOp) (w : Width) (rm : RM) (imm : BitVec w.bits) (s : State) : State :=
  (op w.bits (s.rmRead w rm) imm s).2

/-- The flags alone, of the accumulator and an immediate. -/
def flagsOnAccImm (op : AluOp) (w : Width) (imm : BitVec w.bits) (s : State) : State :=
  (op w.bits (s.gpr.getW w .r000) imm s).2

/-! ### One-operand shapes -/

/-- INC of r/m (R207). -/
def incRm (w : Width) (rm : RM) (s : State) : State :=
  ((s.operandGap rm).setFlags (s.flags.afterInc (s.rmRead w rm))).rmWrite w rm (s.rmRead w rm + 1)

/-- DEC of r/m (R218). -/
def decRm (w : Width) (rm : RM) (s : State) : State :=
  ((s.operandGap rm).setFlags (s.flags.afterDec (s.rmRead w rm))).rmWrite w rm (s.rmRead w rm - 1)

/-! ### Shifts and rotates (R251) -/

/-- One one-bit step: operand and CF. -/
abbrev ShiftStep := (n : Nat) → BitVec n → Bool → BitVec n × Bool

/-- `repeat count times` (R251). -/
def shiftBy (step : ShiftStep) (n : Nat) : Nat → BitVec n → Bool → BitVec n × Bool
  | 0, a, c => (a, c)
  | k + 1, a, c => let x := step n a c; shiftBy step n k x.1 x.2

/-- The count: 1, or all 8 bits of CL (R251, D27). -/
def State.shiftCount (s : State) (byCl : Bool) : Nat := if byCl then (s.gpr.getByte .r001).toNat else 1

/-- What OF becomes when the count is 1, from operand, result and the new CF (R252 to R258). -/
abbrev ShiftOf := (n : Nat) → BitVec n → BitVec n → Bool → Bool

/-- OF after a shift or rotate: by its rule for a count of 1, else undefined (R251, U1). -/
def State.shiftOverflow (s : State) (ofRule : ShiftOf) (count n : Nat) (a r : BitVec n) (c : Bool) : Bool :=
  if count = 1 then ofRule n a r c else s.freeFlag 11

/-- The flags of a shift with a count other than 0: AF is undefined (R251). -/
def State.shiftFlags (s : State) (ofRule : ShiftOf) (count n : Nat) (a r : BitVec n) (c : Bool) : State :=
  (s.setFlags { (s.flags.setSzp r) with CF := c, AF := s.freeFlag 4, OF := s.shiftOverflow ofRule count n a r c }).tick

/-- The flags of a rotate with a count other than 0 (R251). -/
def State.rotateFlags (s : State) (ofRule : ShiftOf) (count n : Nat) (a r : BitVec n) (c : Bool) : State :=
  (s.setFlags { s.flags with CF := c, OF := s.shiftOverflow ofRule count n a r c }).tick

/-- A shift or rotate by 0: value and flags stay; a free bit decides whether the unchanged value is written back, which a
device, or another master that wrote in between, would notice (R251, U13; log 23). -/
def State.shiftByZero (s : State) (w : Width) (rm : RM) : State :=
  match rm with
  | .reg _ => s
  | .mem m => if Config.freeBit s.freeIx 13 then (s.yieldBus.rmWrite w (.mem m) (s.rmRead w (.mem m))).tick else s.tick

/-- A shift: SHL, SHR, SAR (R251). -/
def shiftRm (step : ShiftStep) (ofRule : ShiftOf) (byCl : Bool) (w : Width) (rm : RM) (s : State) : State :=
  if s.shiftCount byCl = 0 then s.shiftByZero w rm
  else
    let a := s.rmRead w rm
    let x := shiftBy step w.bits (s.shiftCount byCl) a s.flags.CF
    ((s.operandGap rm).shiftFlags ofRule (s.shiftCount byCl) w.bits a x.1 x.2).rmWrite w rm x.1

/-- A rotate: ROL, ROR, RCL, RCR (R251). -/
def rotateRm (step : ShiftStep) (ofRule : ShiftOf) (byCl : Bool) (w : Width) (rm : RM) (s : State) : State :=
  if s.shiftCount byCl = 0 then s.shiftByZero w rm
  else
    let a := s.rmRead w rm
    let x := shiftBy step w.bits (s.shiftCount byCl) a s.flags.CF
    ((s.operandGap rm).rotateFlags ofRule (s.shiftCount byCl) w.bits a x.1 x.2).rmWrite w rm x.1

/-! ### String elements (R290, R291) -/

/-- The step of an index register: up or down by the element size (R291). -/
def State.indexStep (s : State) (w : Width) (x : Word) : Word :=
  match w with
  | .byte => if s.flags.DF then x - 1 else x + 1
  | .word => if s.flags.DF then x - 2 else x + 2

/-- SI stepped. -/
def State.stepSi (s : State) (w : Width) : State := s.setReg .r110 (s.indexStep w s.gpr.si)

/-- DI stepped. -/
def State.stepDi (s : State) (w : Width) : State := s.setReg .r111 (s.indexStep w s.gpr.di)

/-- The source element, at seg_src : SI (R290). -/
def State.sourceElement (s : State) (w : Width) : BitVec w.bits := s.readW w (s.segOr .ds) s.gpr.si

/-- The destination element, at ES : DI, never overridden (R290). -/
def State.destElement (s : State) (w : Width) : BitVec w.bits := s.readW w s.sregs.es s.gpr.di

end Sys2Proof.Machine
end

