-- ==== Sys2Proof/Machine/Arithmetic.lean ====
section
/-! DEFINITION. Machine/Arithmetic.lean: the arithmetic instructions (41_arithmetic.md). `s.ip` is IP_next. -/

namespace Sys2Proof.Machine
open Sys2Proof

/-! ### ADD -/

/-- R201. -/
def execAddRmReg (d : Bool) (w : Width) (rm : RM) (r : RegCode) (s : State) : Result :=
  .next (aluOnRmReg aluAdd d w rm r s)

/-- R202. -/
def execAddRmImm (rm : RM) (imm : Imm) (s : State) : Result := .next (aluOnRmImm aluAdd imm.width rm (Imm.value imm) s)

/-- R202, s:w = 11. -/
def execAddRmImmSx (rm : RM) (imm : Byte) (s : State) : Result := .next (aluOnRmImm aluAdd .word rm (sext16 imm) s)

/-- R203. -/
def execAddAccImm (imm : Imm) (s : State) : Result := .next (aluOnAccImm aluAdd imm.width (Imm.value imm) s)

/-! ### ADC -/

/-- R204. -/
def execAdcRmReg (d : Bool) (w : Width) (rm : RM) (r : RegCode) (s : State) : Result :=
  .next (aluOnRmReg aluAdc d w rm r s)

/-- R205. -/
def execAdcRmImm (rm : RM) (imm : Imm) (s : State) : Result := .next (aluOnRmImm aluAdc imm.width rm (Imm.value imm) s)

/-- R205, s:w = 11. -/
def execAdcRmImmSx (rm : RM) (imm : Byte) (s : State) : Result := .next (aluOnRmImm aluAdc .word rm (sext16 imm) s)

/-- R206. -/
def execAdcAccImm (imm : Imm) (s : State) : Result := .next (aluOnAccImm aluAdc imm.width (Imm.value imm) s)

/-! ### SUB -/

/-- R212. -/
def execSubRmReg (d : Bool) (w : Width) (rm : RM) (r : RegCode) (s : State) : Result :=
  .next (aluOnRmReg aluSub d w rm r s)

/-- R213. -/
def execSubRmImm (rm : RM) (imm : Imm) (s : State) : Result := .next (aluOnRmImm aluSub imm.width rm (Imm.value imm) s)

/-- R213, s:w = 11. -/
def execSubRmImmSx (rm : RM) (imm : Byte) (s : State) : Result := .next (aluOnRmImm aluSub .word rm (sext16 imm) s)

/-- R214. -/
def execSubAccImm (imm : Imm) (s : State) : Result := .next (aluOnAccImm aluSub imm.width (Imm.value imm) s)

/-! ### SBB -/

/-- R215. -/
def execSbbRmReg (d : Bool) (w : Width) (rm : RM) (r : RegCode) (s : State) : Result :=
  .next (aluOnRmReg aluSbb d w rm r s)

/-- R216. -/
def execSbbRmImm (rm : RM) (imm : Imm) (s : State) : Result := .next (aluOnRmImm aluSbb imm.width rm (Imm.value imm) s)

/-- R216, s:w = 11. -/
def execSbbRmImmSx (rm : RM) (imm : Byte) (s : State) : Result := .next (aluOnRmImm aluSbb .word rm (sext16 imm) s)

/-- R217. -/
def execSbbAccImm (imm : Imm) (s : State) : Result := .next (aluOnAccImm aluSbb imm.width (Imm.value imm) s)

/-! ### CMP -/

/-- R222: nothing but flags is written. -/
def execCmpRmReg (d : Bool) (w : Width) (rm : RM) (r : RegCode) (s : State) : Result :=
  .next (flagsOnRmReg aluSub d w rm r s)

/-- R223. -/
def execCmpRmImm (rm : RM) (imm : Imm) (s : State) : Result := .next (flagsOnRmImm aluSub imm.width rm (Imm.value imm) s)

/-- R223, s:w = 11. -/
def execCmpRmImmSx (rm : RM) (imm : Byte) (s : State) : Result := .next (flagsOnRmImm aluSub .word rm (sext16 imm) s)

/-- R224. -/
def execCmpAccImm (imm : Imm) (s : State) : Result := .next (flagsOnAccImm aluSub imm.width (Imm.value imm) s)

/-! ### INC, DEC, NEG -/

/-- R207, w = 0. -/
def execIncRm8 (rm : RM) (s : State) : Result := .next (incRm .byte rm s)

/-- R207, w = 1. -/
def execIncRm16 (rm : RM) (s : State) : Result := .next (incRm .word rm s)

/-- R208. -/
def execIncReg16 (r : RegCode) (s : State) : Result := .next (incRm .word (.reg r) s)

/-- R218, w = 0. -/
def execDecRm8 (rm : RM) (s : State) : Result := .next (decRm .byte rm s)

/-- R218, w = 1. -/
def execDecRm16 (rm : RM) (s : State) : Result := .next (decRm .word rm s)

/-- R219. -/
def execDecReg16 (r : RegCode) (s : State) : Result := .next (decRm .word (.reg r) s)

/-- R221. -/
def execNegRm (w : Width) (rm : RM) (s : State) : Result :=
  .next (((s.operandGap rm).setFlags (s.flags.afterSub 0 (s.rmRead w rm) false)).rmWrite w rm
    (subResult 0 (s.rmRead w rm) false))

/-! ### Decimal and ASCII adjusts -/

/-- The condition of the adjusts: the low nibble of AL is above 9, or AF is 1 (R210, R211, R225, R226). -/
def adjustLow (al : Byte) (af : Bool) : Bool := decide (9 < al.toNat % 16) || af

/-- The second condition of DAA and DAS: AL is above 99H, or CF is 1. -/
def adjustHigh (al : Byte) (cf : Bool) : Bool := decide (0x99 < al.toNat) || cf

/-- The flags of AAA and AAS: OF, SF, ZF, PF are undefined (R210, R225, U1). -/
def State.asciiFlags (s : State) (adjusted : Bool) : State :=
  (s.setFlags { s.flags with
    AF := adjusted, CF := adjusted, OF := s.freeFlag 11, SF := s.freeFlag 7, ZF := s.freeFlag 6, PF := s.freeFlag 2 }).tick

/-- AH : AL written. -/
def State.setAhAl (s : State) (ah al : Byte) : State := s.setReg .r000 (wordOf ah al)

/-- R210. -/
def execAaa (s : State) : Result :=
  let al := s.gpr.getByte .r000
  let ah := s.gpr.getByte .r100
  .next (if adjustLow al s.flags.AF then (s.asciiFlags true).setAhAl (ah + 1) ((al + 6) &&& 0x0F)
    else (s.asciiFlags false).setAhAl ah (al &&& 0x0F))

/-- R225. -/
def execAas (s : State) : Result :=
  let al := s.gpr.getByte .r000
  let ah := s.gpr.getByte .r100
  .next (if adjustLow al s.flags.AF then (s.asciiFlags true).setAhAl (ah - 1) ((al - 6) &&& 0x0F)
    else (s.asciiFlags false).setAhAl ah (al &&& 0x0F))

/-- The states of DAA whose outcome is any value (R211, U3; log 8). -/
def daaOpen (al : Byte) (af cf : Bool) : Bool := decide (0x9A ≤ al.toNat ∧ al.toNat ≤ 0x9F) && af && !cf

/-- The states of DAS whose outcome is any value (R226, U3; log 8). -/
def dasOpen (al : Byte) (af cf : Bool) : Bool :=
  decide (0x9A ≤ al.toNat ∧ al.toNat ≤ 0x9F ∨ al.toNat ≤ 5) && af && !cf

/-- AL, CF, AF, SF, ZF, PF any value, and OF undefined (U3; log 8). -/
def State.freeDecimal (s : State) : State := s.freeArithFlags.setRegW .byte .r000 (lowByte (Config.freeWord s.freeIx 0))

/-- AL and the flags of DAA and DAS; OF is undefined (R211, R226, U1). -/
def State.decimal (s : State) (al : Byte) (af cf : Bool) : State :=
  (s.setFlags { (s.flags.setSzp al) with AF := af, CF := cf, OF := s.freeFlag 11 }).tick.setRegW .byte .r000 al

/-- The result of DAA (R211). -/
def daaResult (al : Byte) (af cf : Bool) : Byte :=
  al + (if adjustLow al af then 6 else 0) + (if adjustHigh al cf then 0x60 else 0)

/-- The result of DAS (R226). -/
def dasResult (al : Byte) (af cf : Bool) : Byte :=
  al - (if adjustLow al af then 6 else 0) - (if adjustHigh al cf then 0x60 else 0)

/-- R211. -/
def execDaa (s : State) : Result :=
  let al := s.gpr.getByte .r000
  .next (if daaOpen al s.flags.AF s.flags.CF then s.freeDecimal
    else s.decimal (daaResult al s.flags.AF s.flags.CF) (adjustLow al s.flags.AF) (adjustHigh al s.flags.CF))

/-- R226. -/
def execDas (s : State) : Result :=
  let al := s.gpr.getByte .r000
  .next (if dasOpen al s.flags.AF s.flags.CF then s.freeDecimal
    else s.decimal (dasResult al s.flags.AF s.flags.CF) (adjustLow al s.flags.AF) (adjustHigh al s.flags.CF))

/-- The flags of AAM and AAD: OF, AF, CF are undefined (R232, R235, U1). -/
def State.szpFlags (s : State) (al : Byte) : State :=
  (s.setFlags { (s.flags.setSzp al) with OF := s.freeFlag 11, AF := s.freeFlag 4, CF := s.freeFlag 0 }).tick

/-- R232. -/
def execAam (s : State) : Result :=
  let al := s.gpr.getByte .r000
  .next ((s.szpFlags (al % 10)).setAhAl (al / 10) (al % 10))

/-- R235. -/
def execAad (s : State) : Result :=
  let al := s.gpr.getByte .r100 * 10 + s.gpr.getByte .r000
  .next ((s.szpFlags al).setAhAl 0 al)

/-! ### Multiplication -/

/-- DX : AX written. -/
def State.setDxAx (s : State) (v : BitVec 32) : State :=
  (s.setReg .r010 (v.extractLsb' 16 16)).setReg .r000 (v.extractLsb' 0 16)

/-- The flags of MUL and IMUL: SF, ZF, AF, PF are undefined (R227, R229, U1). -/
def State.mulFlags (s : State) (significant : Bool) : State :=
  (s.setFlags { s.flags with
    CF := significant, OF := significant, SF := s.freeFlag 7, ZF := s.freeFlag 6, AF := s.freeFlag 4,
    PF := s.freeFlag 2 }).tick

/-- R227. -/
def execMulRm (w : Width) (rm : RM) (s : State) : Result :=
  match w with
  | .byte =>
    let p : Word := BitVec.ofNat 16 ((s.gpr.getByte .r000).toNat * (s.rmRead .byte rm).toNat)
    .next ((s.mulFlags (highByte p != 0)).setReg .r000 p)
  | .word =>
    let p : BitVec 32 := BitVec.ofNat 32 (s.gpr.ax.toNat * (s.rmRead .word rm).toNat)
    .next ((s.mulFlags (p.extractLsb' 16 16 != 0)).setDxAx p)

/-- R229. -/
def execImulRm (w : Width) (rm : RM) (s : State) : Result :=
  match w with
  | .byte =>
    let p : Word := BitVec.ofInt 16 ((s.gpr.getByte .r000).toInt * (s.rmRead .byte rm).toInt)
    .next ((s.mulFlags (p != sext16 (lowByte p))).setReg .r000 p)
  | .word =>
    let p : BitVec 32 := BitVec.ofInt 32 (s.gpr.ax.toInt * (s.rmRead .word rm).toInt)
    .next ((s.mulFlags (p != (p.extractLsb' 0 16).signExtend 32)).setDxAx p)

/-! ### Division -/

/-- The dividend: AX, or DX : AX (R233, R234). -/
def State.dividend (s : State) : (w : Width) → BitVec (2 * w.bits)
  | .byte => s.gpr.ax
  | .word => s.gpr.dx ++ s.gpr.ax

/-- Quotient and remainder written: AL and AH, or AX and DX. -/
def State.setQuotient (s : State) (w : Width) (q r : BitVec w.bits) : State :=
  match w, q, r with
  | .byte, q, r => s.setAhAl r q
  | .word, q, r => s.setDxAx (r ++ q)

/-- Quotient and remainder registers and six flags any value (R418, U2; log 7). -/
def State.freeQuotient (s : State) (w : Width) : State :=
  match w with
  | .byte => s.freeArithFlags.setReg .r000 (Config.freeWord s.freeIx 0)
  | .word => (s.freeArithFlags.setReg .r000 (Config.freeWord s.freeIx 0)).setReg .r010 (Config.freeWord s.freeIx 1)

/-- The divide error: type 0 at the end of the instruction, when a LOCK is over (R82, R418; log 25). -/
def divideError (w : Width) (s : State) : Result := raise 0 (s.freeQuotient w).endLock

/-- R233. -/
def execDivRm (w : Width) (rm : RM) (s : State) : Result :=
  let d := (s.rmRead w rm).toNat
  let n := (s.dividend w).toNat
  if d = 0 ∨ 2 ^ w.bits - 1 < n / d then divideError w s
  else .next (s.freeArithFlags.setQuotient w (BitVec.ofNat w.bits (n / d)) (BitVec.ofNat w.bits (n % d)))

/-- R234: the quotient is truncated toward zero and its range is symmetric (D12). -/
def execIdivRm (w : Width) (rm : RM) (s : State) : Result :=
  let d := (s.rmRead w rm).toInt
  let n := (s.dividend w).toInt
  if d = 0 ∨ 2 ^ (w.bits - 1) - 1 < n.tdiv d ∨ n.tdiv d < -(2 ^ (w.bits - 1) - 1) then divideError w s
  else .next (s.freeArithFlags.setQuotient w (BitVec.ofInt w.bits (n.tdiv d)) (BitVec.ofInt w.bits (n.tmod d)))

/-! ### Sign extension -/

/-- R237. -/
def execCbw (s : State) : Result := .next (s.setReg .r000 (sext16 (s.gpr.getByte .r000)))

/-- R238. -/
def execCwd (s : State) : Result := .next (s.setReg .r010 (if s.gpr.ax.msb then 0xFFFF else 0))

end Sys2Proof.Machine
end

