-- ==== Sys2Proof/Machine/ControlTransfer.lean ====
section
/-! DEFINITION. Machine/ControlTransfer.lean: CALL, JMP, RET, the conditional jumps, loops, software interrupts and IRET
(44_control_transfer.md). `s.ip` is IP_next. -/

namespace Sys2Proof.Machine
open Sys2Proof

/-! ### CALL -/

/-- R320. -/
def execCallNear (disp : Word) (s : State) : Result := .next ((s.push16 s.ip).jumpNear (s.ip + disp))

/-- R321: the operand is read before the push. -/
def execCallNearInd (rm : RM) (s : State) : Result :=
  .next (((s.operandGap rm).push16 s.ip).jumpNear (s.rmRead .word rm))

/-- CS, then IP_next pushed, with a gap between the two (R80, R322). -/
def State.pushReturn (s : State) : State := (s.push16 s.sregs.cs).yieldBus.push16 s.ip

/-- R322: CS is pushed first. -/
def execCallFar (off seg : Word) (s : State) : Result :=
  .next (s.pushReturn.jumpFar seg off)

/-- R323: both words are read before the pushes. -/
def execCallFarInd (m : Mem) (s : State) : Result :=
  .next (s.yieldBus.yieldBus.pushReturn.jumpFar (s.farSegment m) (s.farOffset m))

/-! ### JMP -/

/-- R325. -/
def execJmpNear (disp : Word) (s : State) : Result := .next (s.jumpNear (s.ip + disp))

/-- R326. -/
def execJmpShort (disp : Byte) (s : State) : Result := .next (s.jumpRel8 true disp)

/-- R327. -/
def execJmpNearInd (rm : RM) (s : State) : Result := .next (s.jumpNear (s.rmRead .word rm))

/-- R328. -/
def execJmpFar (off seg : Word) (s : State) : Result := .next (s.jumpFar seg off)

/-- R329. -/
def execJmpFarInd (m : Mem) (s : State) : Result :=
  .next (s.yieldBus.jumpFar (s.farSegment m) (s.farOffset m))

/-! ### RET -/

/-- R330. -/
def execRet (s : State) : Result := .next (s.popped.jumpNear s.stackTop)

/-- R331. -/
def execRetImm (n : Word) (s : State) : Result := .next ((s.popped.jumpNear s.stackTop).moveSp n)

/-- IP, then CS popped, with a gap between the two (R80, R332). -/
def State.popFar (s : State) : State := s.yieldBus.popped.popped.jumpFar s.yieldBus.popped.stackTop s.stackTop

/-- R332: IP is popped first. -/
def execRetf (s : State) : Result := .next s.popFar

/-- R333. -/
def execRetfImm (n : Word) (s : State) : Result := .next (s.popFar.moveSp n)

/-! ### Conditional jumps (R339) -/

/-- R340. -/
def execJo (disp : Byte) (s : State) : Result := .next (s.jumpRel8 s.flags.OF disp)

/-- R341. -/
def execJno (disp : Byte) (s : State) : Result := .next (s.jumpRel8 (!s.flags.OF) disp)

/-- R342. -/
def execJb (disp : Byte) (s : State) : Result := .next (s.jumpRel8 s.flags.CF disp)

/-- R343. -/
def execJnb (disp : Byte) (s : State) : Result := .next (s.jumpRel8 (!s.flags.CF) disp)

/-- R344. -/
def execJe (disp : Byte) (s : State) : Result := .next (s.jumpRel8 s.flags.ZF disp)

/-- R345. -/
def execJne (disp : Byte) (s : State) : Result := .next (s.jumpRel8 (!s.flags.ZF) disp)

/-- R346. -/
def execJbe (disp : Byte) (s : State) : Result := .next (s.jumpRel8 (s.flags.CF || s.flags.ZF) disp)

/-- R347. -/
def execJnbe (disp : Byte) (s : State) : Result := .next (s.jumpRel8 (!s.flags.CF && !s.flags.ZF) disp)

/-- R348. -/
def execJs (disp : Byte) (s : State) : Result := .next (s.jumpRel8 s.flags.SF disp)

/-- R349. -/
def execJns (disp : Byte) (s : State) : Result := .next (s.jumpRel8 (!s.flags.SF) disp)

/-- R350. -/
def execJp (disp : Byte) (s : State) : Result := .next (s.jumpRel8 s.flags.PF disp)

/-- R351. -/
def execJnp (disp : Byte) (s : State) : Result := .next (s.jumpRel8 (!s.flags.PF) disp)

/-- R352. -/
def execJl (disp : Byte) (s : State) : Result := .next (s.jumpRel8 (s.flags.SF != s.flags.OF) disp)

/-- R353. -/
def execJnl (disp : Byte) (s : State) : Result := .next (s.jumpRel8 (s.flags.SF == s.flags.OF) disp)

/-- R354. -/
def execJle (disp : Byte) (s : State) : Result := .next (s.jumpRel8 (s.flags.ZF || s.flags.SF != s.flags.OF) disp)

/-- R355. -/
def execJnle (disp : Byte) (s : State) : Result := .next (s.jumpRel8 (!s.flags.ZF && s.flags.SF == s.flags.OF) disp)

/-! ### Loops -/

/-- CX counted down; no flag changes (R356 to R358). -/
def State.countCx (s : State) : State := s.setReg .r001 (s.gpr.cx - 1)

/-- R356. -/
def execLoop (disp : Byte) (s : State) : Result := .next (s.countCx.jumpRel8 (s.countCx.gpr.cx != 0) disp)

/-- R357. -/
def execLoopz (disp : Byte) (s : State) : Result :=
  .next (s.countCx.jumpRel8 (s.countCx.gpr.cx != 0 && s.flags.ZF) disp)

/-- R358. -/
def execLoopnz (disp : Byte) (s : State) : Result :=
  .next (s.countCx.jumpRel8 (s.countCx.gpr.cx != 0 && !s.flags.ZF) disp)

/-- R359. -/
def execJcxz (disp : Byte) (s : State) : Result := .next (s.jumpRel8 (s.gpr.cx == 0) disp)

/-! ### Software interrupts and return -/

/-- R360. -/
def execIntN (t : Byte) (s : State) : Result := raise t s

/-- R361. -/
def execInt3 (s : State) : Result := raise 3 s

/-- R362. -/
def execInto (s : State) : Result := if s.flags.OF then raise 4 s else .next s

/-- R363: no interrupt delay (R428). -/
def execIret (s : State) : Result := .next s.returnFromInterrupt

end Sys2Proof.Machine
end

