-- ==== Sys2Proof/Machine/DataTransfer.lean ====
section
/-! DEFINITION. Machine/DataTransfer.lean: MOV, PUSH, POP, XCHG, IN, OUT, XLAT, LEA, LDS, LES and the flag transfers
(40_data_transfer.md). `s.ip` is IP_next. -/

namespace Sys2Proof.Machine
open Sys2Proof

/-! ### MOV -/

/-- R150. -/
def execMovRmReg (d : Bool) (w : Width) (rm : RM) (r : RegCode) (s : State) : Result :=
  .next (if d then s.setRegW w r (s.rmRead w rm) else s.rmWrite w rm (s.gpr.getW w r))

/-- R151. -/
def execMovRmImm (rm : RM) (imm : Imm) (s : State) : Result := .next (s.rmWrite imm.width rm (Imm.value imm))

/-- R152, w = 0. -/
def execMovReg8Imm (r : RegCode) (imm : Byte) (s : State) : Result := .next (s.setRegW .byte r imm)

/-- R152, w = 1. -/
def execMovReg16Imm (r : RegCode) (imm : Word) (s : State) : Result := .next (s.setRegW .word r imm)

/-- R153. -/
def execMovAccMem (w : Width) (addr : Word) (s : State) : Result :=
  .next (s.setRegW w .r000 (s.readW w (s.segOr .ds) addr))

/-- R154. -/
def execMovMemAcc (w : Width) (addr : Word) (s : State) : Result :=
  .next (s.writeW w (s.segOr .ds) addr (s.gpr.getW w .r000))

/-- R155: the interrupt-delay bit is set (R428). -/
def execMovEsRm (rm : RM) (s : State) : Result := .next (s.setSreg .es (s.rmRead .word rm)).setDelay

/-- R155: the interrupt-delay bit is set (R428). -/
def execMovSsRm (rm : RM) (s : State) : Result := .next (s.setSreg .ss (s.rmRead .word rm)).setDelay

/-- R155: the interrupt-delay bit is set (R428). -/
def execMovDsRm (rm : RM) (s : State) : Result := .next (s.setSreg .ds (s.rmRead .word rm)).setDelay

/-- R156. -/
def execMovRmSreg (sr : SegReg) (rm : RM) (s : State) : Result := .next (s.rmWrite .word rm (s.sregs.get sr))

/-! ### PUSH and POP -/

/-- R159: the operand is read before SP moves. -/
def execPushRm16 (rm : RM) (s : State) : Result := .next ((s.operandGap rm).push16 (s.rmRead .word rm))

/-- R160: the register is read after SP has moved, so PUSH SP stores the new SP. -/
def execPushReg16 (r : RegCode) (s : State) : Result := .next (s.push16 ((s.setSp (s.gpr.sp - 2)).gpr.get r))

/-- R161. -/
def execPushEs (s : State) : Result := .next (s.push16 s.sregs.es)

/-- R161. -/
def execPushCs (s : State) : Result := .next (s.push16 s.sregs.cs)

/-- R161. -/
def execPushSs (s : State) : Result := .next (s.push16 s.sregs.ss)

/-- R161. -/
def execPushDs (s : State) : Result := .next (s.push16 s.sregs.ds)

/-- R162. -/
def execPopRm16 (rm : RM) (s : State) : Result := .next ((s.operandGap rm).popped.rmWrite .word rm s.stackTop)

/-- R163: POP SP leaves the popped word in SP. -/
def execPopReg16 (r : RegCode) (s : State) : Result := .next (s.popped.setReg r s.stackTop)

/-- R164: the interrupt-delay bit is set (R428). -/
def execPopEs (s : State) : Result := .next (s.popped.setSreg .es s.stackTop).setDelay

/-- R164: the word is read through the old SS. -/
def execPopSs (s : State) : Result := .next (s.popped.setSreg .ss s.stackTop).setDelay

/-- R164. -/
def execPopDs (s : State) : Result := .next (s.popped.setSreg .ds s.stackTop).setDelay

/-! ### XCHG -/

/-- R166. -/
def execXchgRmReg (w : Width) (rm : RM) (r : RegCode) (s : State) : Result :=
  .next (((s.operandGap rm).rmWrite w rm (s.gpr.getW w r)).setRegW w r (s.rmRead w rm))

/-- AX exchanged with a register (R167). -/
def exchangeAx (r : RegCode) (s : State) : State := (s.setReg .r000 (s.gpr.get r)).setReg r s.gpr.ax

/-- R167, reg = 001. -/
def execXchgAxCx (s : State) : Result := .next (exchangeAx .r001 s)

/-- R167, reg = 010. -/
def execXchgAxDx (s : State) : Result := .next (exchangeAx .r010 s)

/-- R167, reg = 011. -/
def execXchgAxBx (s : State) : Result := .next (exchangeAx .r011 s)

/-- R167, reg = 100. -/
def execXchgAxSp (s : State) : Result := .next (exchangeAx .r100 s)

/-- R167, reg = 101. -/
def execXchgAxBp (s : State) : Result := .next (exchangeAx .r101 s)

/-- R167, reg = 110. -/
def execXchgAxSi (s : State) : Result := .next (exchangeAx .r110 s)

/-- R167, reg = 111. -/
def execXchgAxDi (s : State) : Result := .next (exchangeAx .r111 s)

/-! ### IN and OUT -/

/-- R168. -/
def execInAccPort (w : Width) (port : Byte) (s : State) : Result :=
  .next (s.setRegW w .r000 (s.ioReadW w (zext16 port)))

/-- R169. -/
def execInAccDx (w : Width) (s : State) : Result := .next (s.setRegW w .r000 (s.ioReadW w s.gpr.dx))

/-- R170. -/
def execOutPortAcc (w : Width) (port : Byte) (s : State) : Result :=
  .next (s.ioWriteW w (zext16 port) (s.gpr.getW w .r000))

/-- R171. -/
def execOutDxAcc (w : Width) (s : State) : Result := .next (s.ioWriteW w s.gpr.dx (s.gpr.getW w .r000))

/-! ### XLAT, LEA, LDS, LES -/

/-- R172. -/
def execXlat (s : State) : Result :=
  .next (s.setRegW .byte .r000 (s.read8 (s.segOr .ds) (s.gpr.bx + zext16 (s.gpr.getByte .r000))))

/-- R173: no memory access. -/
def execLea (r : RegCode) (m : Mem) (s : State) : Result := .next (s.setReg r (s.ea m))

/-- R174: both words are read first; no interrupt delay. -/
def execLds (r : RegCode) (m : Mem) (s : State) : Result :=
  .next ((s.yieldBus.setReg r (s.farOffset m)).setSreg .ds (s.farSegment m))

/-- R175. -/
def execLes (r : RegCode) (m : Mem) (s : State) : Result :=
  .next ((s.yieldBus.setReg r (s.farOffset m)).setSreg .es (s.farSegment m))

/-! ### Flag transfers -/

/-- R176. -/
def execLahf (s : State) : Result :=
  .next (s.setRegW .byte .r100 (lowByte (s.flags.toWord s.plat.flagsImage)))

/-- R177. -/
def execSahf (s : State) : Result := .next (s.setFlags (s.flags.loadLow (s.gpr.getByte .r100)))

/-- R178. -/
def execPushf (s : State) : Result := .next (s.push16 (s.flags.toWord s.plat.flagsImage))

/-- R179: no interrupt delay (R428). -/
def execPopf (s : State) : Result := .next (s.popped.setFlags (Flags.ofWord s.stackTop))

end Sys2Proof.Machine
end

