-- ==== Sys2Proof/Machine/Logic.lean ====
section
/-! DEFINITION. Machine/Logic.lean: the logic, shift and rotate instructions (42_logic.md). `s.ip` is IP_next. -/

namespace Sys2Proof.Machine
open Sys2Proof

/-! ### NOT -/

/-- R250. -/
def execNotRm (w : Width) (rm : RM) (s : State) : Result :=
  .next ((s.operandGap rm).rmWrite w rm (~~~ s.rmRead w rm))

/-! ### The one-bit steps (R252 to R258) -/

/-- R252: 0 enters at the bottom. -/
def shlStep : ShiftStep := fun _ a _ => (a <<< 1, a.msb)

/-- R253: 0 enters at the top. -/
def shrStep : ShiftStep := fun _ a _ => (a >>> 1, a.getLsbD 0)

/-- R254: the top bit keeps its value. -/
def sarStep : ShiftStep := fun _ a _ => (a.sshiftRight 1, a.getLsbD 0)

/-- R255: the bit that leaves the top enters bit 0. -/
def rolStep : ShiftStep := fun n a _ => (a <<< 1 ||| carryIn n a.msb, a.msb)

/-- R256: the bit that leaves the bottom enters the top. -/
def rorStep : ShiftStep := fun n a _ => (a >>> 1 ||| carryIn n (a.getLsbD 0) <<< (n - 1), a.getLsbD 0)

/-- R257: CF enters bit 0. -/
def rclStep : ShiftStep := fun n a c => (a <<< 1 ||| carryIn n c, a.msb)

/-- R258: CF enters the top. -/
def rcrStep : ShiftStep := fun n a c => (a >>> 1 ||| carryIn n c <<< (n - 1), a.getLsbD 0)

/-! ### OF for a count of 1 -/

/-- OF of SHL, ROL, RCL: msb of the result xor CF (R252, R255, R257). -/
def leftOf : ShiftOf := fun _ _ r c => r.msb ^^ c

/-- OF of SHR: msb of the operand (R253). -/
def shrOf : ShiftOf := fun _ a _ _ => a.msb

/-- OF of SAR: 0 (R254). -/
def sarOf : ShiftOf := fun _ _ _ _ => false

/-- OF of ROR, RCR: the two top bits of the result differ (R256, R258). -/
def rightOf : ShiftOf := fun n _ r _ => r.msb ^^ r.getLsbD (n - 2)

/-! ### Shifts and rotates -/

/-- R251, R255. -/
def execRolRm (byCl : Bool) (w : Width) (rm : RM) (s : State) : Result := .next (rotateRm rolStep leftOf byCl w rm s)

/-- R251, R256. -/
def execRorRm (byCl : Bool) (w : Width) (rm : RM) (s : State) : Result := .next (rotateRm rorStep rightOf byCl w rm s)

/-- R251, R257. -/
def execRclRm (byCl : Bool) (w : Width) (rm : RM) (s : State) : Result := .next (rotateRm rclStep leftOf byCl w rm s)

/-- R251, R258. -/
def execRcrRm (byCl : Bool) (w : Width) (rm : RM) (s : State) : Result := .next (rotateRm rcrStep rightOf byCl w rm s)

/-- R251, R252. -/
def execShlRm (byCl : Bool) (w : Width) (rm : RM) (s : State) : Result := .next (shiftRm shlStep leftOf byCl w rm s)

/-- R251, R253. -/
def execShrRm (byCl : Bool) (w : Width) (rm : RM) (s : State) : Result := .next (shiftRm shrStep shrOf byCl w rm s)

/-- R251, R254. -/
def execSarRm (byCl : Bool) (w : Width) (rm : RM) (s : State) : Result := .next (shiftRm sarStep sarOf byCl w rm s)

/-! ### AND -/

/-- R259. -/
def execAndRmReg (d : Bool) (w : Width) (rm : RM) (r : RegCode) (s : State) : Result :=
  .next (aluOnRmReg aluAnd d w rm r s)

/-- R260. -/
def execAndRmImm (rm : RM) (imm : Imm) (s : State) : Result := .next (aluOnRmImm aluAnd imm.width rm (Imm.value imm) s)

/-- R261. -/
def execAndAccImm (imm : Imm) (s : State) : Result := .next (aluOnAccImm aluAnd imm.width (Imm.value imm) s)

/-! ### OR -/

/-- R265. -/
def execOrRmReg (d : Bool) (w : Width) (rm : RM) (r : RegCode) (s : State) : Result :=
  .next (aluOnRmReg aluOr d w rm r s)

/-- R266. -/
def execOrRmImm (rm : RM) (imm : Imm) (s : State) : Result := .next (aluOnRmImm aluOr imm.width rm (Imm.value imm) s)

/-- R267. -/
def execOrAccImm (imm : Imm) (s : State) : Result := .next (aluOnAccImm aluOr imm.width (Imm.value imm) s)

/-! ### XOR -/

/-- R268. -/
def execXorRmReg (d : Bool) (w : Width) (rm : RM) (r : RegCode) (s : State) : Result :=
  .next (aluOnRmReg aluXor d w rm r s)

/-- R269. -/
def execXorRmImm (rm : RM) (imm : Imm) (s : State) : Result := .next (aluOnRmImm aluXor imm.width rm (Imm.value imm) s)

/-- R270. -/
def execXorAccImm (imm : Imm) (s : State) : Result := .next (aluOnAccImm aluXor imm.width (Imm.value imm) s)

/-! ### TEST -/

/-- R262: no write cycle. -/
def execTestRmReg (w : Width) (rm : RM) (r : RegCode) (s : State) : Result := .next (flagsOnRmReg aluAnd false w rm r s)

/-- R263. -/
def execTestRmImm (rm : RM) (imm : Imm) (s : State) : Result := .next (flagsOnRmImm aluAnd imm.width rm (Imm.value imm) s)

/-- R264. -/
def execTestAccImm (imm : Imm) (s : State) : Result := .next (flagsOnAccImm aluAnd imm.width (Imm.value imm) s)

end Sys2Proof.Machine
end

