-- ==== Sys2Proof/Machine/ProcessorControl.lean ====
section
/-! DEFINITION. Machine/ProcessorControl.lean: flag operations, HLT, WAIT, ESC, NOP and the prefix bytes
(45_processor_control.md, 30_encoding.md R115, R116). `s.ip` is IP_next. -/

namespace Sys2Proof.Machine
open Sys2Proof

/-! ### Flag operations -/

/-- R390. -/
def execClc (s : State) : Result := .next (s.setFlags { s.flags with CF := false })

/-- R391. -/
def execCmc (s : State) : Result := .next (s.setFlags { s.flags with CF := !s.flags.CF })

/-- R392. -/
def execStc (s : State) : Result := .next (s.setFlags { s.flags with CF := true })

/-- R393. -/
def execCld (s : State) : Result := .next (s.setFlags { s.flags with DF := false })

/-- R394. -/
def execStd (s : State) : Result := .next (s.setFlags { s.flags with DF := true })

/-- R395. -/
def execCli (s : State) : Result := .next (s.setFlags { s.flags with IF := false })

/-- R398: the interrupt-delay bit is set when IF was 0 (R428). -/
def execSti (s : State) : Result :=
  let t := s.setFlags { s.flags with IF := true }
  .next (if s.flags.IF then t else t.setDelay)

/-! ### HLT, WAIT, ESC, NOP -/

/-- R396. -/
def execHlt (s : State) : Result := .next { s with halted := true }

/-- One turn of R397: TEST LOW ends the wait, else IP goes to the WAIT or its first prefix, and WAIT waits. Log 14. -/
def execWait (s : State) : Result :=
  .next (if s.pins.testLow then { s with waiting := false }
    else { s with ip := s.start, afterWait := s.ip, waiting := true })

/-- A word read and thrown away: a read changes no state of the machine (R74). -/
def State.discard (s : State) (_v : Word) : State := s

/-- R399: the word at a memory operand is read and discarded; no register and no flag changes. -/
def execEsc (_hi _lo : BitVec 3) (rm : RM) (s : State) : Result :=
  .next (match rm with
    | .reg _ => s
    | .mem m => s.discard (s.read16 (s.segEff m) (s.ea m)))

/-- R401. -/
def execNop (s : State) : Result := .next s

/-! ### Prefix bytes: the prefix state of R47 and the delay of R428 (log 12) -/

/-- R400. -/
def execLock (s : State) : Result := .next { s with pfx := { s.pfx with lock := true }, delay := true }

/-- R402, reg = 00; the last override applies (R116). -/
def execOverrideEs (s : State) : Result := .next { s with pfx := { s.pfx with override := some .es }, delay := true }

/-- R402, reg = 01. -/
def execOverrideCs (s : State) : Result := .next { s with pfx := { s.pfx with override := some .cs }, delay := true }

/-- R402, reg = 10. -/
def execOverrideSs (s : State) : Result := .next { s with pfx := { s.pfx with override := some .ss }, delay := true }

/-- R402, reg = 11. -/
def execOverrideDs (s : State) : Result := .next { s with pfx := { s.pfx with override := some .ds }, delay := true }

/-- R292; the last repeat prefix applies (R116). -/
def execRep (z : Bool) (s : State) : Result := .next { s with pfx := { s.pfx with rep := some z }, delay := true }

end Sys2Proof.Machine
end

