-- ==== Sys2Proof/Machine/Reserved.lean ====
section
/-! DEFINITION. Machine/Reserved.lean: the encodings the spec tells a model to refuse (30_encoding.md R119, 92 D5, U10;
40_data_transfer.md R159, U12). Each refuses by the name of its row; none changes any state. -/

namespace Sys2Proof.Machine
open Sys2Proof

/-- The refusal of a reserved encoding (R119), named by its row of the opcode table. -/
def reservedEncoding (row : String) : Host.Outcome State Fault Refusal := .refused (.reservedEncoding row)

/-- FFH F4H, PUSH with the register SP as r/m operand (R159, U12): "a model refuses this one encoding". -/
def execRefPushSp (_s : State) : Host.Outcome State Fault Refusal := .refused .pushSpOperand

/-- 0FH (R119). -/
def execResPopCs (_s : State) : Host.Outcome State Fault Refusal :=
  reservedEncoding "reserved__0FH__would_be_POP_CS"

/-- 60H to 6FH (R119). -/
def execRes60 (_lo : BitVec 4) (_s : State) : Host.Outcome State Fault Refusal :=
  reservedEncoding "reserved__60H_to_6FH"

/-- 82H, s:w = 10 (R119). -/
def execRes82 (_s : State) : Host.Outcome State Fault Refusal :=
  reservedEncoding "reserved__82H__s_w___10"

/-- 83H /1 (R119). -/
def execRes83Or (_mod : BitVec 2) (_rm : BitVec 3) (_s : State) : Host.Outcome State Fault Refusal :=
  reservedEncoding "reserved__83H__1__OR_with_sign-extended_immediate"

/-- 83H /4 (R119). -/
def execRes83And (_mod : BitVec 2) (_rm : BitVec 3) (_s : State) : Host.Outcome State Fault Refusal :=
  reservedEncoding "reserved__83H__4__AND_with_sign-extended_immediate"

/-- 83H /6 (R119). -/
def execRes83Xor (_mod : BitVec 2) (_rm : BitVec 3) (_s : State) : Host.Outcome State Fault Refusal :=
  reservedEncoding "reserved__83H__6__XOR_with_sign-extended_immediate"

/-- 8CH with bit 5 of the second byte set (R119). -/
def execRes8C (_mod : BitVec 2) (_lo : BitVec 5) (_s : State) : Host.Outcome State Fault Refusal :=
  reservedEncoding "reserved__8CH_with_bit_5_of_byte1___1"

/-- 8EH with bit 5 of the second byte set (R119). -/
def execRes8E (_mod : BitVec 2) (_lo : BitVec 5) (_s : State) : Host.Outcome State Fault Refusal :=
  reservedEncoding "reserved__8EH_with_bit_5_of_byte1___1"

/-- 8EH with SR = 01, MOV to CS (R119). -/
def execResMovCs (_mod : BitVec 2) (_rm : BitVec 3) (_s : State) : Host.Outcome State Fault Refusal :=
  reservedEncoding "reserved__8EH_with_sr___01__MOV_to_CS"

/-- 8DH with mod = 11 (R119). -/
def execResLea (_reg _rm : BitVec 3) (_s : State) : Host.Outcome State Fault Refusal :=
  reservedEncoding "reserved__LEA_reg16__mem_with_mod___11"

/-- C4H with mod = 11 (R119). -/
def execResLes (_reg _rm : BitVec 3) (_s : State) : Host.Outcome State Fault Refusal :=
  reservedEncoding "reserved__LES_reg16__mem_with_mod___11"

/-- C5H with mod = 11 (R119). -/
def execResLds (_reg _rm : BitVec 3) (_s : State) : Host.Outcome State Fault Refusal :=
  reservedEncoding "reserved__LDS_reg16__mem_with_mod___11"

/-- 8FH /1 (R119). -/
def execRes8F1 (_mod : BitVec 2) (_rm : BitVec 3) (_s : State) : Host.Outcome State Fault Refusal :=
  reservedEncoding "reserved__8FH__1"

/-- 8FH /2 (R119). -/
def execRes8F2 (_mod : BitVec 2) (_rm : BitVec 3) (_s : State) : Host.Outcome State Fault Refusal :=
  reservedEncoding "reserved__8FH__2"

/-- 8FH /3 (R119). -/
def execRes8F3 (_mod : BitVec 2) (_rm : BitVec 3) (_s : State) : Host.Outcome State Fault Refusal :=
  reservedEncoding "reserved__8FH__3"

/-- 8FH /4 (R119). -/
def execRes8F4 (_mod : BitVec 2) (_rm : BitVec 3) (_s : State) : Host.Outcome State Fault Refusal :=
  reservedEncoding "reserved__8FH__4"

/-- 8FH /5 (R119). -/
def execRes8F5 (_mod : BitVec 2) (_rm : BitVec 3) (_s : State) : Host.Outcome State Fault Refusal :=
  reservedEncoding "reserved__8FH__5"

/-- 8FH /6 (R119). -/
def execRes8F6 (_mod : BitVec 2) (_rm : BitVec 3) (_s : State) : Host.Outcome State Fault Refusal :=
  reservedEncoding "reserved__8FH__6"

/-- 8FH /7 (R119). -/
def execRes8F7 (_mod : BitVec 2) (_rm : BitVec 3) (_s : State) : Host.Outcome State Fault Refusal :=
  reservedEncoding "reserved__8FH__7"

/-- C0H, C1H (R119). -/
def execResC0 (_x : BitVec 1) (_s : State) : Host.Outcome State Fault Refusal :=
  reservedEncoding "reserved__C0H__C1H"

/-- C8H, C9H (R119). -/
def execResC8 (_x : BitVec 1) (_s : State) : Host.Outcome State Fault Refusal :=
  reservedEncoding "reserved__C8H__C9H"

/-- C6H, C7H /1 (R119). -/
def execResC61 (_w : Width) (_mod : BitVec 2) (_rm : BitVec 3) (_s : State) : Host.Outcome State Fault Refusal :=
  reservedEncoding "reserved__C6H__C7H__1"

/-- C6H, C7H /2 (R119). -/
def execResC62 (_w : Width) (_mod : BitVec 2) (_rm : BitVec 3) (_s : State) : Host.Outcome State Fault Refusal :=
  reservedEncoding "reserved__C6H__C7H__2"

/-- C6H, C7H /3 (R119). -/
def execResC63 (_w : Width) (_mod : BitVec 2) (_rm : BitVec 3) (_s : State) : Host.Outcome State Fault Refusal :=
  reservedEncoding "reserved__C6H__C7H__3"

/-- C6H, C7H /4 (R119). -/
def execResC64 (_w : Width) (_mod : BitVec 2) (_rm : BitVec 3) (_s : State) : Host.Outcome State Fault Refusal :=
  reservedEncoding "reserved__C6H__C7H__4"

/-- C6H, C7H /5 (R119). -/
def execResC65 (_w : Width) (_mod : BitVec 2) (_rm : BitVec 3) (_s : State) : Host.Outcome State Fault Refusal :=
  reservedEncoding "reserved__C6H__C7H__5"

/-- C6H, C7H /6 (R119). -/
def execResC66 (_w : Width) (_mod : BitVec 2) (_rm : BitVec 3) (_s : State) : Host.Outcome State Fault Refusal :=
  reservedEncoding "reserved__C6H__C7H__6"

/-- C6H, C7H /7 (R119). -/
def execResC67 (_w : Width) (_mod : BitVec 2) (_rm : BitVec 3) (_s : State) : Host.Outcome State Fault Refusal :=
  reservedEncoding "reserved__C6H__C7H__7"

/-- D0H to D3H /6 (R119). -/
def execResD06 (_v : Bool) (_w : Width) (_mod : BitVec 2) (_rm : BitVec 3) (_s : State) : Host.Outcome State Fault Refusal :=
  reservedEncoding "reserved__D0H_to_D3H__6"

/-- D4H with a second byte other than 0AH (R119). -/
def execResD4 (_b : Byte) (_s : State) : Host.Outcome State Fault Refusal :=
  reservedEncoding "reserved__D4H_with_second_byte_other_than_0AH"

/-- D5H with a second byte other than 0AH (R119). -/
def execResD5 (_b : Byte) (_s : State) : Host.Outcome State Fault Refusal :=
  reservedEncoding "reserved__D5H_with_second_byte_other_than_0AH"

/-- D6H (R119). -/
def execResD6 (_s : State) : Host.Outcome State Fault Refusal :=
  reservedEncoding "reserved__D6H"

/-- F1H (R119). -/
def execResF1 (_s : State) : Host.Outcome State Fault Refusal :=
  reservedEncoding "reserved__F1H"

/-- F6H, F7H /1 (R119). -/
def execResF61 (_w : Width) (_mod : BitVec 2) (_rm : BitVec 3) (_s : State) : Host.Outcome State Fault Refusal :=
  reservedEncoding "reserved__F6H__F7H__1"

/-- FEH /2 (R119). -/
def execResFE2 (_mod : BitVec 2) (_rm : BitVec 3) (_s : State) : Host.Outcome State Fault Refusal :=
  reservedEncoding "reserved__FEH__2"

/-- FEH /3 (R119). -/
def execResFE3 (_mod : BitVec 2) (_rm : BitVec 3) (_s : State) : Host.Outcome State Fault Refusal :=
  reservedEncoding "reserved__FEH__3"

/-- FEH /4 (R119). -/
def execResFE4 (_mod : BitVec 2) (_rm : BitVec 3) (_s : State) : Host.Outcome State Fault Refusal :=
  reservedEncoding "reserved__FEH__4"

/-- FEH /5 (R119). -/
def execResFE5 (_mod : BitVec 2) (_rm : BitVec 3) (_s : State) : Host.Outcome State Fault Refusal :=
  reservedEncoding "reserved__FEH__5"

/-- FEH /6 (R119). -/
def execResFE6 (_mod : BitVec 2) (_rm : BitVec 3) (_s : State) : Host.Outcome State Fault Refusal :=
  reservedEncoding "reserved__FEH__6"

/-- FEH /7 (R119). -/
def execResFE7 (_mod : BitVec 2) (_rm : BitVec 3) (_s : State) : Host.Outcome State Fault Refusal :=
  reservedEncoding "reserved__FEH__7"

/-- FFH /7 (R119). -/
def execResFF7 (_mod : BitVec 2) (_rm : BitVec 3) (_s : State) : Host.Outcome State Fault Refusal :=
  reservedEncoding "reserved__FFH__7"

/-- FFH /3 with mod = 11 (R119). -/
def execResCallFarReg (_rm : BitVec 3) (_s : State) : Host.Outcome State Fault Refusal :=
  reservedEncoding "reserved__CALL_far_indirect__indirect_intersegment__with"

/-- FFH /5 with mod = 11 (R119). -/
def execResJmpFarReg (_rm : BitVec 3) (_s : State) : Host.Outcome State Fault Refusal :=
  reservedEncoding "reserved__JMP_far_indirect__indirect_intersegment__with"

end Sys2Proof.Machine
end

