-- ==== Sys2Proof/Machine/Strings.lean ====
section
/-! DEFINITION. Machine/Strings.lean: the string instructions, alone and under a repeat prefix (43_string.md). One `exec`
is one element (log 13). `s.ip` is IP_next. -/

namespace Sys2Proof.Machine
open Sys2Proof

/-- One element of MOVS (R293). -/
def movsElement (w : Width) (s : State) : State :=
  ((s.yieldBus.writeW w s.sregs.es s.gpr.di (s.sourceElement w)).stepSi w).stepDi w

/-- One element of CMPS (R294): source minus destination. The two reads are two draws (log 4). -/
def cmpsElement (w : Width) (s : State) : State :=
  ((aluSub w.bits (s.sourceElement w) (s.yieldBus.tick.destElement w) s.yieldBus.tick).2.stepSi w).stepDi w

/-- One element of SCAS (R295): accumulator minus element. -/
def scasElement (w : Width) (s : State) : State :=
  (aluSub w.bits (s.gpr.getW w .r000) (s.destElement w) s).2.stepDi w

/-- One element of LODS (R296). -/
def lodsElement (w : Width) (s : State) : State := (s.setRegW w .r000 (s.sourceElement w)).stepSi w

/-- One element of STOS (R297). -/
def stosElement (w : Width) (s : State) : State := (s.writeW w s.sregs.es s.gpr.di (s.gpr.getW w .r000)).stepDi w

/-- R292, R293. -/
def execMovs (w : Width) (s : State) : Result := repeated (.movs w) false (movsElement w) s

/-- R292, R294. -/
def execCmps (w : Width) (s : State) : Result := repeated (.cmps w) true (cmpsElement w) s

/-- R292, R295. -/
def execScas (w : Width) (s : State) : Result := repeated (.scas w) true (scasElement w) s

/-- R292, R296. -/
def execLods (w : Width) (s : State) : Result := repeated (.lods w) false (lodsElement w) s

/-- R292, R297. -/
def execStos (w : Width) (s : State) : Result := repeated (.stos w) false (stosElement w) s

end Sys2Proof.Machine
end

