-- ==== Sys2Proof/Machine/Dispatch.lean ====
section
/-! DEFINITION. Machine/Dispatch.lean: `exec`, one arm per constructor of Instr, each one direct call of its meaning. -/

namespace Sys2Proof.Machine
open Sys2Proof

def exec (i : Instr) (s : State) : Host.Outcome State Fault Refusal :=
  match i with
  -- DATA TRANSFER (40_data_transfer.md)
  | .movRmReg d w rm r => Sys2Proof.Machine.execMovRmReg d w rm r s
  | .movRmImm rm imm => Sys2Proof.Machine.execMovRmImm rm imm s
  | .movReg8Imm r imm => Sys2Proof.Machine.execMovReg8Imm r imm s
  | .movReg16Imm r imm => Sys2Proof.Machine.execMovReg16Imm r imm s
  | .movAccMem w addr => Sys2Proof.Machine.execMovAccMem w addr s
  | .movMemAcc w addr => Sys2Proof.Machine.execMovMemAcc w addr s
  | .movEsRm rm => Sys2Proof.Machine.execMovEsRm rm s
  | .movSsRm rm => Sys2Proof.Machine.execMovSsRm rm s
  | .movDsRm rm => Sys2Proof.Machine.execMovDsRm rm s
  | .movRmSreg sr rm => Sys2Proof.Machine.execMovRmSreg sr rm s
  | .pushRm16 rm => Sys2Proof.Machine.execPushRm16 rm s
  | .pushReg16 r => Sys2Proof.Machine.execPushReg16 r s
  | .pushEs => Sys2Proof.Machine.execPushEs s
  | .pushCs => Sys2Proof.Machine.execPushCs s
  | .pushSs => Sys2Proof.Machine.execPushSs s
  | .pushDs => Sys2Proof.Machine.execPushDs s
  | .popRm16 rm => Sys2Proof.Machine.execPopRm16 rm s
  | .popReg16 r => Sys2Proof.Machine.execPopReg16 r s
  | .popEs => Sys2Proof.Machine.execPopEs s
  | .popSs => Sys2Proof.Machine.execPopSs s
  | .popDs => Sys2Proof.Machine.execPopDs s
  | .xchgRmReg w rm r => Sys2Proof.Machine.execXchgRmReg w rm r s
  | .xchgAxCx => Sys2Proof.Machine.execXchgAxCx s
  | .xchgAxDx => Sys2Proof.Machine.execXchgAxDx s
  | .xchgAxBx => Sys2Proof.Machine.execXchgAxBx s
  | .xchgAxSp => Sys2Proof.Machine.execXchgAxSp s
  | .xchgAxBp => Sys2Proof.Machine.execXchgAxBp s
  | .xchgAxSi => Sys2Proof.Machine.execXchgAxSi s
  | .xchgAxDi => Sys2Proof.Machine.execXchgAxDi s
  | .inAccPort w port => Sys2Proof.Machine.execInAccPort w port s
  | .inAccDx w => Sys2Proof.Machine.execInAccDx w s
  | .outPortAcc w port => Sys2Proof.Machine.execOutPortAcc w port s
  | .outDxAcc w => Sys2Proof.Machine.execOutDxAcc w s
  | .xlat => Sys2Proof.Machine.execXlat s
  | .lea r m => Sys2Proof.Machine.execLea r m s
  | .lds r m => Sys2Proof.Machine.execLds r m s
  | .les r m => Sys2Proof.Machine.execLes r m s
  | .lahf => Sys2Proof.Machine.execLahf s
  | .sahf => Sys2Proof.Machine.execSahf s
  | .pushf => Sys2Proof.Machine.execPushf s
  | .popf => Sys2Proof.Machine.execPopf s
  -- ARITHMETIC (41_arithmetic.md)
  | .addRmReg d w rm r => Sys2Proof.Machine.execAddRmReg d w rm r s
  | .addRmImm rm imm => Sys2Proof.Machine.execAddRmImm rm imm s
  | .addRmImmSx rm imm => Sys2Proof.Machine.execAddRmImmSx rm imm s
  | .addAccImm imm => Sys2Proof.Machine.execAddAccImm imm s
  | .adcRmReg d w rm r => Sys2Proof.Machine.execAdcRmReg d w rm r s
  | .adcRmImm rm imm => Sys2Proof.Machine.execAdcRmImm rm imm s
  | .adcRmImmSx rm imm => Sys2Proof.Machine.execAdcRmImmSx rm imm s
  | .adcAccImm imm => Sys2Proof.Machine.execAdcAccImm imm s
  | .subRmReg d w rm r => Sys2Proof.Machine.execSubRmReg d w rm r s
  | .subRmImm rm imm => Sys2Proof.Machine.execSubRmImm rm imm s
  | .subRmImmSx rm imm => Sys2Proof.Machine.execSubRmImmSx rm imm s
  | .subAccImm imm => Sys2Proof.Machine.execSubAccImm imm s
  | .sbbRmReg d w rm r => Sys2Proof.Machine.execSbbRmReg d w rm r s
  | .sbbRmImm rm imm => Sys2Proof.Machine.execSbbRmImm rm imm s
  | .sbbRmImmSx rm imm => Sys2Proof.Machine.execSbbRmImmSx rm imm s
  | .sbbAccImm imm => Sys2Proof.Machine.execSbbAccImm imm s
  | .cmpRmReg d w rm r => Sys2Proof.Machine.execCmpRmReg d w rm r s
  | .cmpRmImm rm imm => Sys2Proof.Machine.execCmpRmImm rm imm s
  | .cmpRmImmSx rm imm => Sys2Proof.Machine.execCmpRmImmSx rm imm s
  | .cmpAccImm imm => Sys2Proof.Machine.execCmpAccImm imm s
  | .incRm8 rm => Sys2Proof.Machine.execIncRm8 rm s
  | .incRm16 rm => Sys2Proof.Machine.execIncRm16 rm s
  | .incReg16 r => Sys2Proof.Machine.execIncReg16 r s
  | .decRm8 rm => Sys2Proof.Machine.execDecRm8 rm s
  | .decRm16 rm => Sys2Proof.Machine.execDecRm16 rm s
  | .decReg16 r => Sys2Proof.Machine.execDecReg16 r s
  | .aaa => Sys2Proof.Machine.execAaa s
  | .daa => Sys2Proof.Machine.execDaa s
  | .aas => Sys2Proof.Machine.execAas s
  | .das => Sys2Proof.Machine.execDas s
  | .aam => Sys2Proof.Machine.execAam s
  | .aad => Sys2Proof.Machine.execAad s
  | .negRm w rm => Sys2Proof.Machine.execNegRm w rm s
  | .mulRm w rm => Sys2Proof.Machine.execMulRm w rm s
  | .imulRm w rm => Sys2Proof.Machine.execImulRm w rm s
  | .divRm w rm => Sys2Proof.Machine.execDivRm w rm s
  | .idivRm w rm => Sys2Proof.Machine.execIdivRm w rm s
  | .cbw => Sys2Proof.Machine.execCbw s
  | .cwd => Sys2Proof.Machine.execCwd s
  -- LOGIC (42_logic.md)
  | .notRm w rm => Sys2Proof.Machine.execNotRm w rm s
  | .rolRm byCl w rm => Sys2Proof.Machine.execRolRm byCl w rm s
  | .rorRm byCl w rm => Sys2Proof.Machine.execRorRm byCl w rm s
  | .rclRm byCl w rm => Sys2Proof.Machine.execRclRm byCl w rm s
  | .rcrRm byCl w rm => Sys2Proof.Machine.execRcrRm byCl w rm s
  | .shlRm byCl w rm => Sys2Proof.Machine.execShlRm byCl w rm s
  | .shrRm byCl w rm => Sys2Proof.Machine.execShrRm byCl w rm s
  | .sarRm byCl w rm => Sys2Proof.Machine.execSarRm byCl w rm s
  | .andRmReg d w rm r => Sys2Proof.Machine.execAndRmReg d w rm r s
  | .andRmImm rm imm => Sys2Proof.Machine.execAndRmImm rm imm s
  | .andAccImm imm => Sys2Proof.Machine.execAndAccImm imm s
  | .orRmReg d w rm r => Sys2Proof.Machine.execOrRmReg d w rm r s
  | .orRmImm rm imm => Sys2Proof.Machine.execOrRmImm rm imm s
  | .orAccImm imm => Sys2Proof.Machine.execOrAccImm imm s
  | .xorRmReg d w rm r => Sys2Proof.Machine.execXorRmReg d w rm r s
  | .xorRmImm rm imm => Sys2Proof.Machine.execXorRmImm rm imm s
  | .xorAccImm imm => Sys2Proof.Machine.execXorAccImm imm s
  | .testRmReg w rm r => Sys2Proof.Machine.execTestRmReg w rm r s
  | .testRmImm rm imm => Sys2Proof.Machine.execTestRmImm rm imm s
  | .testAccImm imm => Sys2Proof.Machine.execTestAccImm imm s
  -- STRING MANIPULATION (43_string.md)
  | .movs w => Sys2Proof.Machine.execMovs w s
  | .cmps w => Sys2Proof.Machine.execCmps w s
  | .scas w => Sys2Proof.Machine.execScas w s
  | .lods w => Sys2Proof.Machine.execLods w s
  | .stos w => Sys2Proof.Machine.execStos w s
  -- CONTROL TRANSFER (44_control_transfer.md)
  | .callNear disp => Sys2Proof.Machine.execCallNear disp s
  | .callNearInd rm => Sys2Proof.Machine.execCallNearInd rm s
  | .callFar off seg => Sys2Proof.Machine.execCallFar off seg s
  | .callFarInd m => Sys2Proof.Machine.execCallFarInd m s
  | .jmpNear disp => Sys2Proof.Machine.execJmpNear disp s
  | .jmpShort disp => Sys2Proof.Machine.execJmpShort disp s
  | .jmpNearInd rm => Sys2Proof.Machine.execJmpNearInd rm s
  | .jmpFar off seg => Sys2Proof.Machine.execJmpFar off seg s
  | .jmpFarInd m => Sys2Proof.Machine.execJmpFarInd m s
  | .ret => Sys2Proof.Machine.execRet s
  | .retImm n => Sys2Proof.Machine.execRetImm n s
  | .retf => Sys2Proof.Machine.execRetf s
  | .retfImm n => Sys2Proof.Machine.execRetfImm n s
  | .jo disp => Sys2Proof.Machine.execJo disp s
  | .jno disp => Sys2Proof.Machine.execJno disp s
  | .jb disp => Sys2Proof.Machine.execJb disp s
  | .jnb disp => Sys2Proof.Machine.execJnb disp s
  | .je disp => Sys2Proof.Machine.execJe disp s
  | .jne disp => Sys2Proof.Machine.execJne disp s
  | .jbe disp => Sys2Proof.Machine.execJbe disp s
  | .jnbe disp => Sys2Proof.Machine.execJnbe disp s
  | .js disp => Sys2Proof.Machine.execJs disp s
  | .jns disp => Sys2Proof.Machine.execJns disp s
  | .jp disp => Sys2Proof.Machine.execJp disp s
  | .jnp disp => Sys2Proof.Machine.execJnp disp s
  | .jl disp => Sys2Proof.Machine.execJl disp s
  | .jnl disp => Sys2Proof.Machine.execJnl disp s
  | .jle disp => Sys2Proof.Machine.execJle disp s
  | .jnle disp => Sys2Proof.Machine.execJnle disp s
  | .loop disp => Sys2Proof.Machine.execLoop disp s
  | .loopz disp => Sys2Proof.Machine.execLoopz disp s
  | .loopnz disp => Sys2Proof.Machine.execLoopnz disp s
  | .jcxz disp => Sys2Proof.Machine.execJcxz disp s
  | .intN t => Sys2Proof.Machine.execIntN t s
  | .int3 => Sys2Proof.Machine.execInt3 s
  | .into => Sys2Proof.Machine.execInto s
  | .iret => Sys2Proof.Machine.execIret s
  -- PROCESSOR CONTROL and prefix bytes (45_processor_control.md)
  | .clc => Sys2Proof.Machine.execClc s
  | .cmc => Sys2Proof.Machine.execCmc s
  | .stc => Sys2Proof.Machine.execStc s
  | .cld => Sys2Proof.Machine.execCld s
  | .std => Sys2Proof.Machine.execStd s
  | .cli => Sys2Proof.Machine.execCli s
  | .sti => Sys2Proof.Machine.execSti s
  | .hlt => Sys2Proof.Machine.execHlt s
  | .wait => Sys2Proof.Machine.execWait s
  | .esc hi lo rm => Sys2Proof.Machine.execEsc hi lo rm s
  | .lock => Sys2Proof.Machine.execLock s
  | .nop => Sys2Proof.Machine.execNop s
  | .overrideEs => Sys2Proof.Machine.execOverrideEs s
  | .overrideCs => Sys2Proof.Machine.execOverrideCs s
  | .overrideSs => Sys2Proof.Machine.execOverrideSs s
  | .overrideDs => Sys2Proof.Machine.execOverrideDs s
  | .rep z => Sys2Proof.Machine.execRep z s
  -- encodings the spec refuses (30_encoding.md R119; R159)
  | .refPushSp => Sys2Proof.Machine.execRefPushSp s
  | .resPopCs => Sys2Proof.Machine.execResPopCs s
  | .res60 lo => Sys2Proof.Machine.execRes60 lo s
  | .res82 => Sys2Proof.Machine.execRes82 s
  | .res83Or mod rm => Sys2Proof.Machine.execRes83Or mod rm s
  | .res83And mod rm => Sys2Proof.Machine.execRes83And mod rm s
  | .res83Xor mod rm => Sys2Proof.Machine.execRes83Xor mod rm s
  | .res8C mod lo => Sys2Proof.Machine.execRes8C mod lo s
  | .res8E mod lo => Sys2Proof.Machine.execRes8E mod lo s
  | .resMovCs mod rm => Sys2Proof.Machine.execResMovCs mod rm s
  | .resLea reg rm => Sys2Proof.Machine.execResLea reg rm s
  | .resLes reg rm => Sys2Proof.Machine.execResLes reg rm s
  | .resLds reg rm => Sys2Proof.Machine.execResLds reg rm s
  | .res8F1 mod rm => Sys2Proof.Machine.execRes8F1 mod rm s
  | .res8F2 mod rm => Sys2Proof.Machine.execRes8F2 mod rm s
  | .res8F3 mod rm => Sys2Proof.Machine.execRes8F3 mod rm s
  | .res8F4 mod rm => Sys2Proof.Machine.execRes8F4 mod rm s
  | .res8F5 mod rm => Sys2Proof.Machine.execRes8F5 mod rm s
  | .res8F6 mod rm => Sys2Proof.Machine.execRes8F6 mod rm s
  | .res8F7 mod rm => Sys2Proof.Machine.execRes8F7 mod rm s
  | .resC0 x => Sys2Proof.Machine.execResC0 x s
  | .resC8 x => Sys2Proof.Machine.execResC8 x s
  | .resC61 w mod rm => Sys2Proof.Machine.execResC61 w mod rm s
  | .resC62 w mod rm => Sys2Proof.Machine.execResC62 w mod rm s
  | .resC63 w mod rm => Sys2Proof.Machine.execResC63 w mod rm s
  | .resC64 w mod rm => Sys2Proof.Machine.execResC64 w mod rm s
  | .resC65 w mod rm => Sys2Proof.Machine.execResC65 w mod rm s
  | .resC66 w mod rm => Sys2Proof.Machine.execResC66 w mod rm s
  | .resC67 w mod rm => Sys2Proof.Machine.execResC67 w mod rm s
  | .resD06 v w mod rm => Sys2Proof.Machine.execResD06 v w mod rm s
  | .resD4 b => Sys2Proof.Machine.execResD4 b s
  | .resD5 b => Sys2Proof.Machine.execResD5 b s
  | .resD6 => Sys2Proof.Machine.execResD6 s
  | .resF1 => Sys2Proof.Machine.execResF1 s
  | .resF61 w mod rm => Sys2Proof.Machine.execResF61 w mod rm s
  | .resFE2 mod rm => Sys2Proof.Machine.execResFE2 mod rm s
  | .resFE3 mod rm => Sys2Proof.Machine.execResFE3 mod rm s
  | .resFE4 mod rm => Sys2Proof.Machine.execResFE4 mod rm s
  | .resFE5 mod rm => Sys2Proof.Machine.execResFE5 mod rm s
  | .resFE6 mod rm => Sys2Proof.Machine.execResFE6 mod rm s
  | .resFE7 mod rm => Sys2Proof.Machine.execResFE7 mod rm s
  | .resFF7 mod rm => Sys2Proof.Machine.execResFF7 mod rm s
  | .resCallFarReg rm => Sys2Proof.Machine.execResCallFarReg rm s
  | .resJmpFarReg rm => Sys2Proof.Machine.execResJmpFarReg rm s

end Sys2Proof.Machine
end

