-- ==== Sys2Proof/Machine/Cycle.lean ====
section
/-! DEFINITION. Machine/Cycle.lean: what one step does around `exec`: the environment, RESET, the bus, the idle states, the
fetch and the end of an instruction (10_state.md R49; 60_exceptions.md R415; 70_reset_and_hazards.md R470). -/

namespace Sys2Proof.Machine
open Sys2Proof

/-- One instruction, prefix byte or string element, and its end (R415). TF counts as it is here, when the instruction
begins (R425; log 29). -/
def perform (i : Instr) (s : State) : Result :=
  if s.badRepeat i then .refused .repeatBeforeNonString else andThen (exec i s) (boundary s.flags.TF i)

/-- The next instruction fetched, decoded and performed (R27, R100). -/
def fetchAndPerform (s : State) : Result :=
  match decode s.fetchBytes with
  | .error _ => .refused .truncated
  | .ok (i, rest) => perform i (s.fetched (6 - rest.length))

/-- One turn of the CPU: of the halt state (R396), of WAIT (R397), of a repeated string instruction (R292), or the next
instruction. -/
def turn (s : State) : Result :=
  if s.halted then recognise s.flags.TF true s.ip s
  else if s.waiting then perform .wait { s with ip := s.afterWait }
  else
    match s.running with
    | some i => perform i s
    | none => fetchAndPerform s

/-- One step: a sample of the environment; the gap before the CPU's first bus transfer (R80); RESET (R470); then the CPU's turn,
unless another master holds the bus (R48; log 30). -/
def cycle (s : State) : Result :=
  if s.sampleInputs.pins.reset then .next s.sampleInputs.yieldBus.dormant
  else if s.pins.reset then .next s.sampleInputs.yieldBus.afterReset
  else if s.sampleInputs.yieldBus.pins.hold && !s.sampleInputs.yieldBus.busLocked then .next s.sampleInputs.yieldBus
  else turn s.sampleInputs.yieldBus

/-- Bytes put into memory at consecutive offsets of a segment. -/
def placeBytes (seg : Word) : Word → List Byte → Memory → Memory
  | _, [], m => m
  | off, b :: rest, m => placeBytes seg (off + 1) rest (memWrite m (phys seg off).toNat b)

/-- The state with these bytes where the next fetch reads them, and nothing that keeps the next step from fetching: RAM
everywhere, an empty queue, no idle state, no RESET, no bus request, no sample left. Log 21. -/
def State.withBytes (s : State) (bytes : List Byte) : State :=
  { s with
    mem := placeBytes s.sregs.cs s.ip bytes s.mem
    stale := [], halted := false, waiting := false, running := none, inputs := [], busQueue := []
    pins := { s.pins with reset := false, hold := false }
    plat := { s.plat with memMap := [] } }

end Sys2Proof.Machine
end

