-- ==== Sys2Proof/Machine/Step.lean ====
section
/-! DEFINITION. Machine/Step.lean: the step of the machine, and the placing of an instruction for the host. -/

namespace Sys2Proof.Machine
open Sys2Proof

/-- One step of the machine. -/
def step (s : State) : Host.Outcome State Fault Refusal := cycle s

/-- An instruction of the opcode table, its bits numbered as the table numbers them, placed where `step` fetches next.
Log 20, 21. -/
def State.withFetchWord (s : State) (nbits w : Nat) : State := s.withBytes (tableBytes nbits w)

end Sys2Proof.Machine
end

