-- ==== Sys2Proof/WellFormed.lean ====
section
/-! DEFINITION. WellFormed.lean: which terms of `Instr` some bytes stand for. Three checks: a memory operand has no base BP
without a displacement (R107), PUSH r/m16 has not the register SP (R159), AAM's and AAD's reserved rest has not the second
byte 0AH (R119). -/

namespace Sys2Proof

/-- mod = 00, r/m = 110 is the direct address, so no operand is BP without a displacement (R107). -/
def Mem.wellFormed : Mem → Bool
  | .plain b => b != .bp
  | .direct _ => true
  | .disp8 _ _ => true
  | .disp16 _ _ => true

/-- An r/m operand some second byte stands for. -/
def RM.wellFormed : RM → Bool
  | .reg _ => true
  | .mem m => m.wellFormed

/-- FFH F4H is refused and is no PUSH r/m16 (R159, U12). -/
def RM.notSp : RM → Bool
  | .reg r => r != .r100
  | .mem _ => true

/-- Some bytes stand for the instruction. -/
def WellFormed : Instr → Bool
  | .movRmReg _ _ rm _ => rm.wellFormed
  | .movRmImm rm _ => rm.wellFormed
  | .movReg8Imm _ _ => true
  | .movReg16Imm _ _ => true
  | .movAccMem _ _ => true
  | .movMemAcc _ _ => true
  | .movEsRm rm => rm.wellFormed
  | .movSsRm rm => rm.wellFormed
  | .movDsRm rm => rm.wellFormed
  | .movRmSreg _ rm => rm.wellFormed
  | .pushRm16 rm => rm.wellFormed && rm.notSp
  | .pushReg16 _ => true
  | .pushEs => true
  | .pushCs => true
  | .pushSs => true
  | .pushDs => true
  | .popRm16 rm => rm.wellFormed
  | .popReg16 _ => true
  | .popEs => true
  | .popSs => true
  | .popDs => true
  | .xchgRmReg _ rm _ => rm.wellFormed
  | .xchgAxCx => true
  | .xchgAxDx => true
  | .xchgAxBx => true
  | .xchgAxSp => true
  | .xchgAxBp => true
  | .xchgAxSi => true
  | .xchgAxDi => true
  | .inAccPort _ _ => true
  | .inAccDx _ => true
  | .outPortAcc _ _ => true
  | .outDxAcc _ => true
  | .xlat => true
  | .lea _ m => m.wellFormed
  | .lds _ m => m.wellFormed
  | .les _ m => m.wellFormed
  | .lahf => true
  | .sahf => true
  | .pushf => true
  | .popf => true
  | .addRmReg _ _ rm _ => rm.wellFormed
  | .addRmImm rm _ => rm.wellFormed
  | .addRmImmSx rm _ => rm.wellFormed
  | .addAccImm _ => true
  | .adcRmReg _ _ rm _ => rm.wellFormed
  | .adcRmImm rm _ => rm.wellFormed
  | .adcRmImmSx rm _ => rm.wellFormed
  | .adcAccImm _ => true
  | .subRmReg _ _ rm _ => rm.wellFormed
  | .subRmImm rm _ => rm.wellFormed
  | .subRmImmSx rm _ => rm.wellFormed
  | .subAccImm _ => true
  | .sbbRmReg _ _ rm _ => rm.wellFormed
  | .sbbRmImm rm _ => rm.wellFormed
  | .sbbRmImmSx rm _ => rm.wellFormed
  | .sbbAccImm _ => true
  | .cmpRmReg _ _ rm _ => rm.wellFormed
  | .cmpRmImm rm _ => rm.wellFormed
  | .cmpRmImmSx rm _ => rm.wellFormed
  | .cmpAccImm _ => true
  | .incRm8 rm => rm.wellFormed
  | .incRm16 rm => rm.wellFormed
  | .incReg16 _ => true
  | .decRm8 rm => rm.wellFormed
  | .decRm16 rm => rm.wellFormed
  | .decReg16 _ => true
  | .aaa => true
  | .daa => true
  | .aas => true
  | .das => true
  | .aam => true
  | .aad => true
  | .negRm _ rm => rm.wellFormed
  | .mulRm _ rm => rm.wellFormed
  | .imulRm _ rm => rm.wellFormed
  | .divRm _ rm => rm.wellFormed
  | .idivRm _ rm => rm.wellFormed
  | .cbw => true
  | .cwd => true
  | .notRm _ rm => rm.wellFormed
  | .rolRm _ _ rm => rm.wellFormed
  | .rorRm _ _ rm => rm.wellFormed
  | .rclRm _ _ rm => rm.wellFormed
  | .rcrRm _ _ rm => rm.wellFormed
  | .shlRm _ _ rm => rm.wellFormed
  | .shrRm _ _ rm => rm.wellFormed
  | .sarRm _ _ rm => rm.wellFormed
  | .andRmReg _ _ rm _ => rm.wellFormed
  | .andRmImm rm _ => rm.wellFormed
  | .andAccImm _ => true
  | .orRmReg _ _ rm _ => rm.wellFormed
  | .orRmImm rm _ => rm.wellFormed
  | .orAccImm _ => true
  | .xorRmReg _ _ rm _ => rm.wellFormed
  | .xorRmImm rm _ => rm.wellFormed
  | .xorAccImm _ => true
  | .testRmReg _ rm _ => rm.wellFormed
  | .testRmImm rm _ => rm.wellFormed
  | .testAccImm _ => true
  | .movs _ => true
  | .cmps _ => true
  | .scas _ => true
  | .lods _ => true
  | .stos _ => true
  | .callNear _ => true
  | .callNearInd rm => rm.wellFormed
  | .callFar _ _ => true
  | .callFarInd m => m.wellFormed
  | .jmpNear _ => true
  | .jmpShort _ => true
  | .jmpNearInd rm => rm.wellFormed
  | .jmpFar _ _ => true
  | .jmpFarInd m => m.wellFormed
  | .ret => true
  | .retImm _ => true
  | .retf => true
  | .retfImm _ => true
  | .jo _ => true
  | .jno _ => true
  | .jb _ => true
  | .jnb _ => true
  | .je _ => true
  | .jne _ => true
  | .jbe _ => true
  | .jnbe _ => true
  | .js _ => true
  | .jns _ => true
  | .jp _ => true
  | .jnp _ => true
  | .jl _ => true
  | .jnl _ => true
  | .jle _ => true
  | .jnle _ => true
  | .loop _ => true
  | .loopz _ => true
  | .loopnz _ => true
  | .jcxz _ => true
  | .intN _ => true
  | .int3 => true
  | .into => true
  | .iret => true
  | .clc => true
  | .cmc => true
  | .stc => true
  | .cld => true
  | .std => true
  | .cli => true
  | .sti => true
  | .hlt => true
  | .wait => true
  | .esc _ _ rm => rm.wellFormed
  | .lock => true
  | .nop => true
  | .overrideEs => true
  | .overrideCs => true
  | .overrideSs => true
  | .overrideDs => true
  | .rep _ => true
  | .refPushSp => true
  | .resPopCs => true
  | .res60 _ => true
  | .res82 => true
  | .res83Or _ _ => true
  | .res83And _ _ => true
  | .res83Xor _ _ => true
  | .res8C _ _ => true
  | .res8E _ _ => true
  | .resMovCs _ _ => true
  | .resLea _ _ => true
  | .resLes _ _ => true
  | .resLds _ _ => true
  | .res8F1 _ _ => true
  | .res8F2 _ _ => true
  | .res8F3 _ _ => true
  | .res8F4 _ _ => true
  | .res8F5 _ _ => true
  | .res8F6 _ _ => true
  | .res8F7 _ _ => true
  | .resC0 _ => true
  | .resC8 _ => true
  | .resC61 _ _ _ => true
  | .resC62 _ _ _ => true
  | .resC63 _ _ _ => true
  | .resC64 _ _ _ => true
  | .resC65 _ _ _ => true
  | .resC66 _ _ _ => true
  | .resC67 _ _ _ => true
  | .resD06 _ _ _ _ => true
  | .resD4 b => b != 0x0A#8
  | .resD5 b => b != 0x0A#8
  | .resD6 => true
  | .resF1 => true
  | .resF61 _ _ _ => true
  | .resFE2 _ _ => true
  | .resFE3 _ _ => true
  | .resFE4 _ _ => true
  | .resFE5 _ _ => true
  | .resFE6 _ _ => true
  | .resFE7 _ _ => true
  | .resFF7 _ _ => true
  | .resCallFarReg _ => true
  | .resJmpFarReg _ => true

end Sys2Proof
end

