-- ==== Sys2Proof/Safety.lean ====
section
/-! DEFINITION. Safety.lean: the terms the statements are written in: what holds between two steps, what an instruction
leaves as it was, what a store, a result or a flag is, in plain arithmetic and not in the machine's own functions. -/

namespace Sys2Proof.Machine
open Sys2Proof

/-! ### Between two steps -/

/-- A string instruction is in progress between two steps only as R292 leaves it: repeated, with elements left. -/
def State.runningOk (s : State) : Bool :=
  match s.running with
  | none => true
  | some i => Instr.isString i && s.pfx.rep.isSome && s.gpr.cx != 0

/-- The idle states exclude one another and a string instruction in progress (R46, R292, R446). -/
def State.idleOk (s : State) : Bool :=
  !(s.halted && s.waiting) && !(s.halted && s.running.isSome) && !(s.waiting && s.running.isSome)

/-- Prefixes are remembered only for an instruction yet to come or one that goes on: not in the halt state (R47, R396). -/
def State.prefixOk (s : State) : Bool := !s.halted || s.pfx == Prefixes.none

/-- Holds between any two steps: memory is in canonical form; the two bits that live inside a step are clear (R45, R415;
log 31); what is in progress is as the rules leave it. -/
def State.Inv (s : State) : Bool :=
  Memory.wf s.mem && !s.delay && !s.entered && s.runningOk && s.idleOk && s.prefixOk

/-- The state a step works on once the environment and the other masters have been served. -/
def State.served (s : State) : State := s.sampleInputs.yieldBus

/-- The next step fetches an instruction: no RESET, the bus is the CPU's, no idle state, no string instruction goes on. -/
def State.readyToFetch (s : State) : Bool :=
  !s.sampleInputs.pins.reset && !s.pins.reset && !(s.served.pins.hold && !s.served.busLocked) && !s.halted && !s.waiting &&
    s.running.isNone

/-- These bytes decode to the instruction, whatever follows them. -/
def encodedAs (i : Instr) (bytes : List Byte) : Prop := ∀ rest, decode (bytes ++ rest) = .ok (i, rest)

/-! ### What stays -/

/-- Everything but general and segment registers, IP, FLAGS, memory, the queue's record, the log and the draw number. -/
def State.restSame (s t : State) : Prop :=
  t.nmiLatch = s.nmiLatch ∧ t.delay = s.delay ∧ t.halted = s.halted ∧ t.waiting = s.waiting ∧ t.pfx = s.pfx ∧
    t.running = s.running ∧ t.start = s.start ∧ t.afterWait = s.afterWait ∧ t.entered = s.entered ∧ t.pins = s.pins ∧
    t.inputs = s.inputs ∧ t.busQueue = s.busQueue ∧ t.ports = s.ports ∧ t.plat = s.plat

/-- Every byte of memory reads as before. -/
def State.memSame (s t : State) : Prop := ∀ a, memRead t.mem a = memRead s.mem a

/-- Nothing is stored: memory, the log and the queue's record are as before. -/
def State.noStore (s t : State) : Prop := s.memSame t ∧ t.busLog = s.busLog ∧ t.stale = s.stale

/-- No control is transferred and no segment register changes. -/
def State.straight (s t : State) : Prop := t.sregs = s.sregs ∧ t.ip = s.ip ∧ s.restSame t

/-- Only flags, or nothing, can differ (with the draw number). -/
def State.flagsOnly (s t : State) : Prop := t.gpr = s.gpr ∧ s.noStore t ∧ s.straight t

/-- Nothing at all differs but the draw number. -/
def State.unchanged (s t : State) : Prop := t.flags = s.flags ∧ s.flagsOnly t

/-- TF, IF and DF are as before (R200: never touched by the arithmetic and logic groups). -/
def Flags.controlsSame (f g : Flags) : Prop := g.TF = f.TF ∧ g.IF = f.IF ∧ g.DF = f.DF

/-! ### Registers -/

/-- One word register holds a value, the seven others are as before. -/
def Gpr.onlyWord (g h : Gpr) (r : RegCode) (v : Word) : Prop := h.get r = v ∧ ∀ x, x ≠ r → h.get x = g.get x

/-- One byte register holds a value; the seven others and SP, BP, SI, DI are as before (R22). -/
def Gpr.onlyByte (g h : Gpr) (r : RegCode) (v : Byte) : Prop :=
  h.getByte r = v ∧ (∀ x, x ≠ r → h.getByte x = g.getByte x) ∧ h.sp = g.sp ∧ h.bp = g.bp ∧ h.si = g.si ∧ h.di = g.di

/-- One register of the operand width holds a value, every other register is as before. -/
def Gpr.onlyReg (g h : Gpr) (w : Width) (r : RegCode) (v : BitVec w.bits) : Prop :=
  match w, v with
  | .byte, v => g.onlyByte h r v
  | .word, v => g.onlyWord h r v

/-- One segment register holds a value, the three others are as before. -/
def SegRegs.only (g h : SegRegs) (r : SegReg) (v : Word) : Prop := h.get r = v ∧ ∀ x, x ≠ r → h.get x = g.get x

/-! ### Stores -/

/-- The bytes of a word at a segment and offset, in the order they are written: low byte first, the high byte at offset + 1
modulo 2^16 of the same segment (R66, R67, R69). -/
def wordBytes (seg off v : Word) : List (PAddr × Byte) :=
  [(phys seg off, lowByte v), (phys seg (off + 1), highByte v)]

/-- The bytes of an operand at a segment and offset. -/
def operandBytes (w : Width) (seg off : Word) (v : BitVec w.bits) : List (PAddr × Byte) :=
  match w, v with
  | .byte, v => [(phys seg off, v)]
  | .word, v => wordBytes seg off v

/-- What an address reads after these bytes are written, oldest first: RAM takes its byte, everything else stays. -/
def State.readAfter (s : State) (l : List (PAddr × Byte)) (a : Nat) : Byte :=
  l.foldl (fun v c => if a = c.1.toNat ∧ s.kindOf c.1 = .ram then c.2 else v) (memRead s.mem a)

/-- These bytes, oldest first, and no others are stored: every address reads as they say, devices are given theirs. -/
def State.storedBytes (s t : State) (l : List (PAddr × Byte)) : Prop :=
  (∀ a, memRead t.mem a = s.readAfter l a) ∧
    t.busLog = s.busLog ++ l.filterMap (fun c => if s.kindOf c.1 = .device then some (.device c.1 c.2) else none)

/-- The queue's record after the bytes `l` are stored, those of `done` before them: a byte of RAM that may be prefetched and
takes another value leaves the value it had, newest first (R84). -/
def State.recordAfter (s : State) (done record : List (PAddr × Byte)) : List (PAddr × Byte) → List (PAddr × Byte)
  | [] => record
  | c :: rest =>
    s.recordAfter (done ++ [c])
      (if s.kindOf c.1 = .ram ∧ s.mayBePrefetched c.1 = true ∧ s.readAfter done c.1.toNat ≠ c.2 then
        (c.1, s.readAfter done c.1.toNat) :: record
      else record) rest

/-- The same without a transfer of control: the queue's record takes every byte that may be prefetched and changes (R84). -/
def State.stored (s t : State) (l : List (PAddr × Byte)) : Prop :=
  s.storedBytes t l ∧ t.stale = s.recordAfter [] s.stale l

/-- The r/m operand, and nothing else among general registers and memory, takes a value. Where the operand was read before,
`s` is the state after the gap between read and write (`operandGap`, R71, R484). -/
def State.wroteRm (s t : State) (w : Width) (rm : RM) (v : BitVec w.bits) : Prop :=
  match rm with
  | .reg r => s.gpr.onlyReg t.gpr w r v ∧ s.noStore t
  | .mem m => t.gpr = s.gpr ∧ s.stored t (operandBytes w (s.segEff m) (s.ea m) v)

/-- An operand at a segment and offset stands in RAM or ROM. -/
def State.inMemory (s : State) (w : Width) (seg off : Word) : Bool :=
  (operandBytes w seg off 0).all fun c => s.kindOf c.1 == .ram || s.kindOf c.1 == .rom

/-- SP goes down by 2 and the word is stored at SS : SP (R14). -/
def State.pushed (s t : State) (v : Word) : Prop :=
  s.gpr.onlyWord t.gpr .r100 (s.gpr.sp - 2) ∧ s.stored t (wordBytes s.sregs.ss (s.gpr.sp - 2) v)

/-- The bytes of an interrupt frame in the order they are written: FLAGS, CS, return offset (R430, R431). -/
def State.frameBytes (s : State) (f : Flags) (ret : Word) : List (PAddr × Byte) :=
  wordBytes s.sregs.ss (s.gpr.sp - 2) (f.toWord s.plat.flagsImage) ++
    wordBytes s.sregs.ss (s.gpr.sp - 4) s.sregs.cs ++ wordBytes s.sregs.ss (s.gpr.sp - 6) ret

/-! ### Transfers of control -/

/-- Control goes to an offset of the same segment, the queue is emptied, flags and everything else stay (R83, R339). -/
def State.jumped (s t : State) (ip : Word) : Prop :=
  t.ip = ip ∧ t.stale = [] ∧ t.sregs = s.sregs ∧ t.flags = s.flags ∧ s.restSame t

/-- Control goes to a segment and offset. -/
def State.jumpedFar (s t : State) (cs ip : Word) : Prop :=
  t.ip = ip ∧ t.stale = [] ∧ s.sregs.only t.sregs .cs cs ∧ t.flags = s.flags ∧ s.restSame t

/-- The word of memory at a physical address, low byte first. -/
def State.wordAt (s : State) (a : Nat) : Word := wordOf (memRead s.mem (a + 1)) (memRead s.mem a)

/-- The pointer of type `t` stands in RAM or ROM. -/
def State.pointerInMemory (s : State) (t : Byte) : Bool :=
  (List.range 4).all fun k => s.kindOf (BitVec.ofNat 20 (4 * t.toNat + k)) == .ram ||
    s.kindOf (BitVec.ofNat 20 (4 * t.toNat + k)) == .rom

/-- One interrupt of type `t` was taken in state `s`: FLAGS, CS and the return offset `ret` pushed, IF and TF clear, control
at CS : IP of the pointer (offset word at 4t, segment word at 4t + 2), every idle state and prefix left behind; no other
register changed (R430, R431). Other masters may write in the gap before each of the five words (R80): `pushFrame` is the
frame with the gaps before its words. Where they have nothing to write, the frame's bytes alone are stored. -/
def State.took (s u : State) (t : Byte) (ret : Word) : Prop :=
  let pushed := s.tick.pushFrame ret
  s.gpr.onlyWord u.gpr .r100 (s.gpr.sp - 6) ∧ u.flags = { s.flags with IF := false, TF := false } ∧
    u.ip = pushed.yieldBus.wordAt (4 * t.toNat) ∧
    s.sregs.only u.sregs .cs (pushed.yieldBus.yieldBus.wordAt (4 * t.toNat + 2)) ∧
    pushed.yieldBus.yieldBus.memSame u ∧ u.busLog = pushed.busLog ∧ u.busQueue = pushed.yieldBus.yieldBus.busQueue ∧
    (s.busQueue = [] → s.storedBytes u (s.frameBytes s.flags ret) ∧ u.ip = s.wordAt (4 * t.toNat) ∧
      u.sregs.cs = s.wordAt (4 * t.toNat + 2) ∧ u.busQueue = []) ∧
    u.stale = [] ∧ u.halted = false ∧ u.waiting = false ∧ u.running = none ∧ u.pfx = Prefixes.none ∧ u.delay = s.delay ∧
    u.pins = s.pins ∧ u.inputs = s.inputs ∧ u.ports = s.ports ∧ u.plat = s.plat

/-- Instruction `i` raises an internal interrupt of type `t` in state `s`: a software interrupt (R360 to R362), or a divide
error, where the divisor is 0 or the quotient out of range (R233, R234, R418; for IDIV the range of D12). -/
def State.raises (s : State) (i : Instr) (t : Byte) : Prop :=
  i = .intN t ∨ (i = .int3 ∧ t = 3) ∨ (i = .into ∧ t = 4 ∧ s.flags.OF = true) ∨
    (t = 0 ∧ ∃ w rm,
      (i = .divRm w rm ∧ ((s.rmRead w rm).toNat = 0 ∨ 2 ^ w.bits - 1 < (s.dividend w).toNat / (s.rmRead w rm).toNat)) ∨
      (i = .idivRm w rm ∧ ((s.rmRead w rm).toInt = 0 ∨
        2 ^ (w.bits - 1) - 1 < (s.dividend w).toInt.tdiv (s.rmRead w rm).toInt ∨
        (s.dividend w).toInt.tdiv (s.rmRead w rm).toInt < -(2 ^ (w.bits - 1) - 1))))

/-- The eighteen bytes below the top of the stack, which three frames take, stand above the interrupt pointers. -/
def State.stackAbovePointers (s : State) : Bool :=
  (List.range 18).all fun k => decide (1024 ≤ (phys s.sregs.ss (s.gpr.sp - BitVec.ofNat 16 (k + 1))).toNat)

/-- Control is at the pointer of type `x`, `n` bytes of frames are on the stack, and the word on top of them is the offset of
the handler of type `t`, to which the handler of type `x` returns (R416, R430 steps 8, 9). -/
def State.chained (s u : State) (t x : Byte) (n : Word) : Prop :=
  u.nmiLatch = false ∧ u.gpr.sp = s.gpr.sp - n ∧ u.ip = s.wordAt (4 * x.toNat) ∧
    u.sregs.cs = s.wordAt (4 * x.toNat + 2) ∧ u.read16 u.sregs.ss u.gpr.sp = s.wordAt (4 * t.toNat) ∧
    u.flags.TF = false ∧ u.flags.IF = false

/-- What the CPU performs in its turn, and the state it performs it in: a WAIT that waits, a string instruction that goes on,
or the next instruction; nothing in the halt state. -/
def State.performs (s : State) : Option (Instr × State) :=
  if s.halted then none
  else if s.waiting then some (.wait, { s with ip := s.afterWait })
  else
    match s.running, decode s.fetchBytes with
    | some i, _ => some (i, s)
    | none, .ok (i, rest) => some (i, s.fetched (6 - rest.length))
    | none, .error _ => none

/-- An NMI taken in the CPU's turn builds its frame below `sp`: SP at the end of what is performed, or below the frame of the
internal interrupt that it raises (R415, R430 step 8). -/
def State.nmiFrameBelow (s : State) (sp : Word) : Prop :=
  match s.performs with
  | none => sp = s.gpr.sp
  | some (i, u) => ∃ v, exec i u = .next v ∧ sp = if v.entered then u.gpr.sp - 6 else v.gpr.sp

/-! ### Operands of the d forms (R102) -/

/-- The destination: the register where d = 1, else the r/m operand. -/
def destOf (d : Bool) (rm : RM) (r : RegCode) : RM := if d then .reg r else rm

/-- The source: the other one. -/
def sourceOf (d : Bool) (rm : RM) (r : RegCode) : RM := if d then rm else .reg r

/-- The sum of the registers of an effective address, not yet wrapped (R107). -/
def EaBase.sum (g : Gpr) : EaBase → Nat
  | .bxSi => g.bx.toNat + g.si.toNat
  | .bxDi => g.bx.toNat + g.di.toNat
  | .bpSi => g.bp.toNat + g.si.toNat
  | .bpDi => g.bp.toNat + g.di.toNat
  | .si => g.si.toNat
  | .di => g.di.toNat
  | .bp => g.bp.toNat
  | .bx => g.bx.toNat

/-! ### Flags in plain arithmetic (R17) -/

/-- A number has an even count of 1 bits among its low eight. -/
def evenOnes (v : Nat) : Prop := (List.range 8).countP (fun i => v.testBit i) % 2 = 0

/-- SF, ZF and PF of a result `v` of `n` bits: `set_szp`. -/
def Flags.szpOf (f : Flags) (n v : Nat) : Prop :=
  (f.SF = true ↔ 2 ^ (n - 1) ≤ v) ∧ (f.ZF = true ↔ v = 0) ∧ (f.PF = true ↔ evenOnes v)

/-- An integer is no value of a two's complement number of `n` bits. -/
def tooBig (n : Nat) (x : Int) : Prop := x < -(2 ^ (n - 1)) ∨ 2 ^ (n - 1) ≤ x

/-- All flags but CF after `a + b + c` (R17, R200): OF says that the signed sum does not fit (R34). -/
def Flags.sumBut (f g : Flags) {n : Nat} (a b : BitVec n) (c : Bool) : Prop :=
  g.szpOf n ((a.toNat + b.toNat + c.toNat) % 2 ^ n) ∧
    (g.AF = true ↔ 16 ≤ a.toNat % 16 + b.toNat % 16 + c.toNat) ∧
    (g.OF = true ↔ tooBig n (a.toInt + b.toInt + c.toNat)) ∧ f.controlsSame g

/-- All flags after `a + b + c`. -/
def Flags.sum (f g : Flags) {n : Nat} (a b : BitVec n) (c : Bool) : Prop :=
  f.sumBut g a b c ∧ (g.CF = true ↔ 2 ^ n ≤ a.toNat + b.toNat + c.toNat)

/-- The value of `a - b - c` modulo 2^N. -/
def difference {n : Nat} (a b : BitVec n) (c : Bool) : Nat := (((a.toNat : Int) - b.toNat - c.toNat) % 2 ^ n).toNat

/-- All flags but CF after `a - b - c` (R17, R200). -/
def Flags.differenceBut (f g : Flags) {n : Nat} (a b : BitVec n) (c : Bool) : Prop :=
  g.szpOf n (difference a b c) ∧ (g.AF = true ↔ a.toNat % 16 < b.toNat % 16 + c.toNat) ∧
    (g.OF = true ↔ tooBig n (a.toInt - b.toInt - c.toNat)) ∧ f.controlsSame g

/-- All flags after `a - b - c`. -/
def Flags.difference (f g : Flags) {n : Nat} (a b : BitVec n) (c : Bool) : Prop :=
  f.differenceBut g a b c ∧ (g.CF = true ↔ a.toNat < b.toNat + c.toNat)

/-- The flags of `logic_flags` (R271): AF is not constrained. -/
def Flags.logic (f g : Flags) (n v : Nat) : Prop :=
  g.szpOf n v ∧ g.CF = false ∧ g.OF = false ∧ f.controlsSame g

/-- The flags after a shift by `k` other than 0 (R251): AF is not constrained, OF only where `k` is 1. -/
def Flags.shifted (f g : Flags) (n v k : Nat) (carry overflow : Prop) : Prop :=
  g.szpOf n v ∧ (g.CF = true ↔ carry) ∧ (k = 1 → (g.OF = true ↔ overflow)) ∧ f.controlsSame g

/-- The flags after a rotate by `k` other than 0 (R251): CF and OF alone are written, OF defined only where `k` is 1. -/
def Flags.rotated (f g : Flags) (k : Nat) (carry overflow : Bool) : Prop :=
  g.CF = carry ∧ (k = 1 → g.OF = overflow) ∧ g.SF = f.SF ∧ g.ZF = f.ZF ∧ g.AF = f.AF ∧ g.PF = f.PF ∧ f.controlsSame g

/-! ### Families of instructions -/

/-- The encodings of R119 that a model must refuse. -/
def Instr.isReserved : Instr → Bool
  | .resPopCs => true
  | .res60 _ => true
  | .res82 => true
  | .res83Or _ _ => true
  | .res83And _ _ => true
  | .res83Xor _ _ => true
  | .res8C _ _ => true
  | .res8E _ _ => true
  | .resMovCs _ _ => true
  | .resLea _ _ => true
  | .resLes _ _ => true
  | .resLds _ _ => true
  | .res8F1 _ _ => true
  | .res8F2 _ _ => true
  | .res8F3 _ _ => true
  | .res8F4 _ _ => true
  | .res8F5 _ _ => true
  | .res8F6 _ _ => true
  | .res8F7 _ _ => true
  | .resC0 _ => true
  | .resC8 _ => true
  | .resC61 _ _ _ => true
  | .resC62 _ _ _ => true
  | .resC63 _ _ _ => true
  | .resC64 _ _ _ => true
  | .resC65 _ _ _ => true
  | .resC66 _ _ _ => true
  | .resC67 _ _ _ => true
  | .resD06 _ _ _ _ => true
  | .resD4 _ => true
  | .resD5 _ => true
  | .resD6 => true
  | .resF1 => true
  | .resF61 _ _ _ => true
  | .resFE2 _ _ => true
  | .resFE3 _ _ => true
  | .resFE4 _ _ => true
  | .resFE5 _ _ => true
  | .resFE6 _ _ => true
  | .resFE7 _ _ => true
  | .resFF7 _ _ => true
  | .resCallFarReg _ => true
  | .resJmpFarReg _ => true
  | _ => false

/-- The string instructions whose repetition looks at ZF (R292). -/
def Instr.comparesZf : Instr → Bool
  | .cmps _ => true
  | .scas _ => true
  | _ => false

/-- Intersegment transfers and IRET: they write CS themselves (R25). -/
def Instr.writesCs : Instr → Bool
  | .callFar _ _ => true
  | .callFarInd _ => true
  | .jmpFar _ _ => true
  | .jmpFarInd _ => true
  | .retf => true
  | .retfImm _ => true
  | .iret => true
  | _ => false

/-- The instructions that can raise an interrupt of their own (R413, R418). -/
def Instr.canRaise : Instr → Bool
  | .intN _ => true
  | .int3 => true
  | .into => true
  | .divRm _ _ => true
  | .idivRm _ _ => true
  | _ => false

/-- POPF and IRET: they load the whole of FLAGS (R35). -/
def Instr.loadsFlags : Instr → Bool
  | .popf => true
  | .iret => true
  | _ => false

end Sys2Proof.Machine
end

