-- ==== Sys2Proof/Certificates/Slice0/Obligations.lean ====
section
/-! DEFINITION. Certificates/Slice0/Obligations.lean: the statements for the provers, in the terms of Safety.lean. In every
one `s.ip` is IP_next, the offset after the instruction (R27). -/

open Sys2Proof Sys2Proof.Machine

/-! ### The machine as a whole -/

/-- R27, R415: where a step fetches, it runs the instruction the bytes at CS : IP decode to. The instruction gets the
registers, segments, flags and prefixes of the state before the step, and IP past its bytes; where it has no prefix its
start is noted; memory is as before where no other master writes in the gap after the fetch (R80). A repeat prefix before a
non-string instruction is refused (R119, D22); `boundary` is the end of the instruction (R415), with TF as it was. -/
def Obligations.StepRunsDecodedInstruction : Prop :=
  ∀ (s : State) (i : Instr) (rest : List Byte), s.readyToFetch = true → decode s.served.fetchBytes = .ok (i, rest) →
    WellFormed i = true →
      let x := s.served.fetched (6 - rest.length)
      step s = (if s.served.badRepeat i then .refused .repeatBeforeNonString
        else andThen (exec i x) (boundary s.flags.TF i)) ∧
      x.gpr = s.gpr ∧ x.sregs = s.sregs ∧ x.flags = s.flags ∧ x.pfx = s.pfx ∧
        x.ip = s.ip + BitVec.ofNat 16 (6 - rest.length) ∧ x.start = (if s.pfx = Prefixes.none then s.ip else s.start) ∧
        (s.served.busQueue = [] → x.mem = s.served.mem)

/-- R103 to R119: decoding the encoding of any well-formed instruction gives it back, whatever bytes follow. -/
def Obligations.DecodeOfEncode : Prop :=
  ∀ i : Instr, WellFormed i = true → ∀ rest : List Byte, decode (encode i ++ rest) = .ok (i, rest)

/-- R100, R118: whatever decodes is the encoding of what it decodes to, so no bit of the bytes is dropped and no two byte
sequences mean the same instruction. -/
def Obligations.EncodeOfDecode : Prop :=
  ∀ (bs : List Byte) (i : Instr) (rest : List Byte), decode bs = .ok (i, rest) →
    WellFormed i = true ∧ bs = encode i ++ rest

/-- Words written out from the encodings of R117: one of each family. -/
def Obligations.DecodedWords : Prop :=
  decode [0x88, 0x48, 0x05] = .ok (.movRmReg false .byte (.mem (.disp8 .bxSi 0x05)) .r001, []) ∧
    decode [0x83, 0xC3, 0xFF] = .ok (.addRmImmSx (.reg .r011) 0xFF, []) ∧
    decode [0xD3, 0xE8] = .ok (.shrRm true .word (.reg .r000), []) ∧
    decode [0xA5] = .ok (.movs .word, []) ∧
    decode [0x9A, 0x00, 0x02, 0x00, 0x50] = .ok (.callFar 0x0200 0x5000, []) ∧
    decode [0xF0] = .ok (.lock, []) ∧
    decode [0x8E, 0xC8] = .ok (.resMovCs 3 0, [])

/-- Between two steps the invariant holds for good: memory stays in canonical form, the interrupt-delay bit lives inside a
step (R45), a string instruction goes on only with a repeat prefix and elements left (R292), no idle state overlaps
another (R446), no prefix is remembered in the halt state (R47). -/
def Obligations.StepKeepsInv : Prop :=
  ∀ s t : State, s.Inv = true → step s = .next t → t.Inv = true

/-- The invariant holds right after reset. -/
def Obligations.ResetHasInv : Prop := State.reset.Inv = true

/-- R40: all nine flags are 0 after reset; and the segment registers, IP, the queue, the NMI latch, the prefix state and the
halt state are as the table of R50 has them, so that the first byte is fetched from FFFF0H (R51). The general registers,
which R50 leaves open, are the model's choice (log 2) and not part of this statement. -/
def Obligations.ResetState : Prop :=
  (State.reset.flags.CF = false ∧ State.reset.flags.PF = false ∧ State.reset.flags.AF = false ∧
    State.reset.flags.ZF = false ∧ State.reset.flags.SF = false ∧ State.reset.flags.TF = false ∧
    State.reset.flags.IF = false ∧ State.reset.flags.DF = false ∧ State.reset.flags.OF = false) ∧
  State.reset.sregs.cs = 0xFFFF ∧ State.reset.ip = 0 ∧ State.reset.sregs.ds = 0 ∧ State.reset.sregs.es = 0 ∧
    State.reset.sregs.ss = 0 ∧ (phys State.reset.sregs.cs State.reset.ip).toNat = 0xFFFF0 ∧ State.reset.stale = [] ∧
    State.reset.nmiLatch = false ∧ State.reset.delay = false ∧ State.reset.pfx = Prefixes.none ∧
    State.reset.halted = false ∧ State.reset.waiting = false ∧ State.reset.running = none

/-- R470: in a step that samples RESET HIGH nothing is executed and the idle states are left; in the step that samples it
LOW again every piece of state but the general registers (U20), memory and the outside world takes its reset value. That
memory changes in either step by other masters' writes alone. That the NMI latch is clear after the step that ends RESET,
also where the sample of that very step has an NMI edge (R473 latches an edge after RESET went LOW), is the model's choice
(log 19). -/
def Obligations.ResetPin : Prop :=
  ∀ s : State,
    (s.sampleInputs.pins.reset = true → ∃ t, step s = .next t ∧ t.gpr = s.gpr ∧ t.sregs = s.sregs ∧ t.ip = s.ip ∧
      t.flags = s.flags ∧ t.halted = false ∧ t.waiting = false ∧ t.running = none ∧ t.pfx = Prefixes.none ∧
      t.mem = s.served.mem ∧ t.busLog = s.busLog) ∧
    (s.pins.reset = true → s.sampleInputs.pins.reset = false → ∃ t, step s = .next t ∧
      t.flags = State.reset.flags ∧ t.sregs = State.reset.sregs ∧ t.ip = State.reset.ip ∧ t.stale = [] ∧
      t.nmiLatch = false ∧ t.delay = false ∧ t.pfx = Prefixes.none ∧ t.halted = false ∧ t.waiting = false ∧
      t.running = none ∧ t.mem = s.served.mem ∧ t.busLog = s.busLog)

/-! ### Memory and addresses -/

/-- R62: the physical address is the segment times 16 plus the offset, its low 20 bits. -/
def Obligations.PhysicalAddress : Prop :=
  ∀ seg off : Word, (phys seg off).toNat = (seg.toNat * 16 + off.toNat) % 2 ^ 20

/-- R106 to R109: the effective address is the sum of its registers and the displacement modulo 2^16, a byte displacement
sign-extended; the default segment is SS where the sum contains BP, else DS, and an override replaces it. -/
def Obligations.EffectiveAddress : Prop :=
  ∀ (s : State) (b : EaBase) (d8 : Byte) (d16 : Word),
    (s.ea (.plain b)).toNat = EaBase.sum s.gpr b % 2 ^ 16 ∧
    ((s.ea (.disp8 b d8)).toNat : Int) = ((EaBase.sum s.gpr b : Int) + d8.toInt) % 2 ^ 16 ∧
    (s.ea (.disp16 b d16)).toNat = (EaBase.sum s.gpr b + d16.toNat) % 2 ^ 16 ∧
    s.ea (.direct d16) = d16 ∧
    (∀ m ∈ [Mem.plain b, Mem.disp8 b d8, Mem.disp16 b d16], s.segEff m =
      match s.pfx.override with
      | some r => s.sregs.get r
      | none => if b = .bpSi ∨ b = .bpDi ∨ b = .bp then s.sregs.ss else s.sregs.ds) ∧
    s.segEff (.direct d16) =
      match s.pfx.override with
      | some r => s.sregs.get r
      | none => s.sregs.ds

/-- R66 to R69, R79: a word written where RAM stands is read back, its low byte at the lower offset and its high byte at
offset + 1 modulo 2^16 of the same segment; every other address reads as before. -/
def Obligations.ReadAfterWrite : Prop :=
  ∀ (s : State) (seg off v : Word), s.kindOf (phys seg off) = .ram → s.kindOf (phys seg (off + 1)) = .ram →
    (s.write16 seg off v).read16 seg off = v ∧ (s.write16 seg off v).read8 seg off = lowByte v ∧
      (s.write16 seg off v).read8 seg (off + 1) = highByte v ∧
      ∀ a : Nat, a ≠ (phys seg off).toNat → a ≠ (phys seg (off + 1)).toNat →
        memRead (s.write16 seg off v).mem a = memRead s.mem a

/-- R84, U6: the five bytes from IP_next on may be in the queue. A store into one of them that changes its value records the
old value; one elsewhere, or of the same value, leaves the record. A byte without a record is fetched from memory; any
other is memory's or a recorded one, so that right after a first such store the byte executed is the old or the new one.
How the queue is represented is the model's choice (log 9); that a store by another master counts like one by the CPU, the
five bytes then being counted from IP, or from IP_next of a WAIT that waits, is the model's choice too (log 28). -/
def Obligations.PrefetchedBytes : Prop :=
  ∀ (s : State) (a : PAddr),
    (s.mayBePrefetched a = true ↔ ∃ k < 5, a = phys s.sregs.cs (s.queueStart + BitVec.ofNat 16 k)) ∧
    (s.waiting = false → s.queueStart = s.ip) ∧ (s.waiting = true → s.queueStart = s.afterWait) ∧
    ((∀ c ∈ s.stale, c.1 ≠ a) → s.fetchAt a = s.busRead a) ∧
    (s.fetchAt a = s.busRead a ∨ (a, s.fetchAt a) ∈ s.stale) ∧
    ∀ b,
      (s.kindOf a = .ram → s.busWrite a b = s.ramWrite a b ∧ s.masterWrite a b = s.ramWrite a b) ∧
      (s.mayBePrefetched a = false → (s.ramWrite a b).stale = s.stale) ∧
      (memRead s.mem a.toNat = b → (s.ramWrite a b).stale = s.stale) ∧
      (s.mayBePrefetched a = true → memRead s.mem a.toNat ≠ b →
        (s.ramWrite a b).stale = (a, memRead s.mem a.toNat) :: s.stale) ∧
      (s.kindOf a = .ram → (∀ c ∈ s.stale, c.1 ≠ a) →
        (s.ramWrite a b).fetchAt a = b ∨ (s.ramWrite a b).fetchAt a = memRead s.mem a.toNat)

/-- R71, R80, R82, R484: in a gap between two bus transfers other masters write the bytes they have for it, into RAM alone,
and nothing else of the machine changes; a register operand has no gap. While a LOCK prefix is in force in maximum mode
there is no gap and the requests wait; without the prefix the first waiting entry is honoured. That the requests are
numbered by gaps is the model's choice (log 15). -/
def Obligations.OtherMasters : Prop :=
  ∀ s : State,
    (s.pfx.lock = true → s.plat.maxMode = true → s.yieldBus = s) ∧
    (s.busQueue = [] → s.yieldBus = s) ∧
    (∀ now later, s.pfx.lock = false → s.busQueue = now :: later →
      s.yieldBus.busQueue = later ∧ ∀ a, memRead s.yieldBus.mem a = s.readAfter now a) ∧
    s.yieldBus = { s with mem := s.yieldBus.mem, stale := s.yieldBus.stale, busQueue := s.yieldBus.busQueue } ∧
    (∀ r, s.operandGap (.reg r) = s) ∧ (∀ m, s.operandGap (.mem m) = s.yieldBus) ∧
    s.served = s.sampleInputs.yieldBus ∧ s.sampleInputs.pfx = s.pfx ∧
    (∀ e rest, s.inputs = e :: rest → s.sampleInputs.busQueue = s.busQueue ++ e.busWrites)

/-! ### Data transfer -/

/-- R150 to R154: MOV writes its destination with the source, read before, and nothing else; the accumulator forms use a
direct address of DS or the override segment. -/
def Obligations.MovForms : Prop :=
  ∀ s : State,
    let kept (t : State) : Prop := t.flags = s.flags ∧ s.straight t
    (∀ d w rm r, ∃ t, exec (.movRmReg d w rm r) s = .next t ∧
      s.wroteRm t w (destOf d rm r) (s.rmRead w (sourceOf d rm r)) ∧ kept t) ∧
    (∀ rm imm, ∃ t, exec (.movRmImm rm imm) s = .next t ∧ s.wroteRm t imm.width rm (Imm.value imm) ∧ kept t) ∧
    (∀ r v, ∃ t, exec (.movReg8Imm r v) s = .next t ∧ s.gpr.onlyByte t.gpr r v ∧ s.noStore t ∧ kept t) ∧
    (∀ r v, ∃ t, exec (.movReg16Imm r v) s = .next t ∧ s.gpr.onlyWord t.gpr r v ∧ s.noStore t ∧ kept t) ∧
    (∀ w a, ∃ t, exec (.movAccMem w a) s = .next t ∧
      s.gpr.onlyReg t.gpr w .r000 (s.rmRead w (.mem (.direct a))) ∧ s.noStore t ∧ kept t) ∧
    (∀ w a, ∃ t, exec (.movMemAcc w a) s = .next t ∧ s.wroteRm t w (.mem (.direct a)) (s.gpr.getW w .r000) ∧ kept t)

/-- R155, R156: a segment register is loaded and the interrupt-delay bit set (R428); or it is stored, without a delay. -/
def Obligations.MovSegment : Prop :=
  ∀ (s : State) (rm : RM),
    (∀ p ∈ [(Instr.movEsRm rm, SegReg.es), (Instr.movSsRm rm, SegReg.ss), (Instr.movDsRm rm, SegReg.ds)],
      ∃ t, exec p.1 s = .next t ∧ s.sregs.only t.sregs p.2 (s.rmRead .word rm) ∧ t.gpr = s.gpr ∧ t.ip = s.ip ∧
        t.flags = s.flags ∧ s.noStore t ∧ { s with delay := true }.restSame t) ∧
    (∀ sr, ∃ t, exec (.movRmSreg sr rm) s = .next t ∧ s.wroteRm t .word rm (s.sregs.get sr) ∧ t.flags = s.flags ∧
      s.straight t)

/-- R159 to R161, R178: PUSH lowers SP by 2 and stores the word at SS : SP; PUSH SP stores the new SP; PUSHF stores FLAGS.
Between the read of a memory operand and the push another master may write (R80: `operandGap`). -/
def Obligations.PushForms : Prop :=
  ∀ s : State,
    (∀ rm, ∃ t, exec (.pushRm16 rm) s = .next t ∧ (s.operandGap rm).pushed t (s.rmRead .word rm) ∧ t.flags = s.flags ∧
      (s.operandGap rm).straight t) ∧
    (∀ r, ∃ t, exec (.pushReg16 r) s = .next t ∧
      s.pushed t (if r = .r100 then s.gpr.sp - 2 else s.gpr.get r) ∧ t.flags = s.flags ∧ s.straight t) ∧
    (∀ p ∈ [(Instr.pushEs, s.sregs.es), (Instr.pushCs, s.sregs.cs), (Instr.pushSs, s.sregs.ss),
        (Instr.pushDs, s.sregs.ds), (Instr.pushf, s.flags.toWord s.plat.flagsImage)],
      ∃ t, exec p.1 s = .next t ∧ s.pushed t p.2 ∧ t.flags = s.flags ∧ s.straight t)

/-- R162 to R164: POP reads the word at SS : SP, raises SP by 2 and then writes its destination, so POP SP leaves the popped
word in SP; a pop into a segment register sets the interrupt-delay bit. Before a destination in memory is written, another
master may write (R80: `yieldBus`). -/
def Obligations.PopForms : Prop :=
  ∀ s : State,
    (∀ m, ∃ t, exec (.popRm16 (.mem m)) s = .next t ∧ s.gpr.onlyWord t.gpr .r100 (s.gpr.sp + 2) ∧
      s.yieldBus.stored t (wordBytes (s.segEff m) (s.ea m) (s.read16 s.sregs.ss s.gpr.sp)) ∧ t.flags = s.flags ∧
      s.yieldBus.straight t) ∧
    (∀ r, ∀ i ∈ [Instr.popReg16 r, Instr.popRm16 (.reg r)], ∃ t, exec i s = .next t ∧
      t.gpr.get r = s.read16 s.sregs.ss s.gpr.sp ∧ (r ≠ .r100 → t.gpr.sp = s.gpr.sp + 2) ∧
      (∀ x, x ≠ r → x ≠ .r100 → t.gpr.get x = s.gpr.get x) ∧ s.noStore t ∧ t.flags = s.flags ∧ s.straight t) ∧
    (∀ p ∈ [(Instr.popEs, SegReg.es), (Instr.popSs, SegReg.ss), (Instr.popDs, SegReg.ds)],
      ∃ t, exec p.1 s = .next t ∧ s.sregs.only t.sregs p.2 (s.read16 s.sregs.ss s.gpr.sp) ∧
        s.gpr.onlyWord t.gpr .r100 (s.gpr.sp + 2) ∧ t.ip = s.ip ∧ t.flags = s.flags ∧ s.noStore t ∧
        { s with delay := true }.restSame t)

/-- R166, R167: XCHG puts each operand's old value into the other; between the read and the write of a memory operand another
master may write (R71, R484: `yieldBus`). -/
def Obligations.XchgForms : Prop :=
  ∀ s : State,
    (∀ w m r, ∃ t, exec (.xchgRmReg w (.mem m) r) s = .next t ∧ s.gpr.onlyReg t.gpr w r (s.rmRead w (.mem m)) ∧
      s.yieldBus.stored t (operandBytes w (s.segEff m) (s.ea m) (s.gpr.getW w r)) ∧ t.flags = s.flags ∧
      s.yieldBus.straight t) ∧
    (∀ w r1 r2, ∃ t, exec (.xchgRmReg w (.reg r1) r2) s = .next t ∧ t.gpr.getW w r1 = s.gpr.getW w r2 ∧
      t.gpr.getW w r2 = s.gpr.getW w r1 ∧ (∀ x, x ≠ r1 → x ≠ r2 → t.gpr.getW w x = s.gpr.getW w x) ∧
      (w = .byte → t.gpr.sp = s.gpr.sp ∧ t.gpr.bp = s.gpr.bp ∧ t.gpr.si = s.gpr.si ∧ t.gpr.di = s.gpr.di) ∧
      s.noStore t ∧ t.flags = s.flags ∧ s.straight t) ∧
    (∀ p ∈ [(Instr.xchgAxCx, RegCode.r001), (Instr.xchgAxDx, RegCode.r010), (Instr.xchgAxBx, RegCode.r011),
        (Instr.xchgAxSp, RegCode.r100), (Instr.xchgAxBp, RegCode.r101), (Instr.xchgAxSi, RegCode.r110),
        (Instr.xchgAxDi, RegCode.r111)],
      ∃ t, exec p.1 s = .next t ∧ t.gpr.ax = s.gpr.get p.2 ∧ t.gpr.get p.2 = s.gpr.ax ∧
        (∀ x, x ≠ .r000 → x ≠ p.2 → t.gpr.get x = s.gpr.get x) ∧ s.noStore t ∧ t.flags = s.flags ∧ s.straight t)

/-- R168 to R171: IN loads AL or AX from a port, where the platform answers there; OUT gives AL or AX to a port, low byte
first; the second byte of a word is at port + 1 modulo 2^16 (R72, D15). -/
def Obligations.InOutForms : Prop :=
  ∀ (s : State) (port : Byte),
    (∀ p ∈ [(Instr.inAccPort .byte port, BitVec.ofNat 16 port.toNat), (Instr.inAccDx .byte, s.gpr.dx)],
      ∃ t v, exec p.1 s = .next t ∧ s.gpr.onlyByte t.gpr .r000 v ∧ (∀ b, portLookup s.ports p.2 = some b → v = b) ∧
        s.noStore t ∧ t.flags = s.flags ∧ s.straight t) ∧
    (∀ p ∈ [(Instr.inAccPort .word port, BitVec.ofNat 16 port.toNat), (Instr.inAccDx .word, s.gpr.dx)],
      ∃ t v, exec p.1 s = .next t ∧ s.gpr.onlyWord t.gpr .r000 v ∧
        (∀ b, portLookup s.ports p.2 = some b → lowByte v = b) ∧
        (∀ b, portLookup s.ports (p.2 + 1) = some b → highByte v = b) ∧ s.noStore t ∧ t.flags = s.flags ∧
        s.straight t) ∧
    (∀ p ∈ [(Instr.outPortAcc .byte port, BitVec.ofNat 16 port.toNat), (Instr.outDxAcc .byte, s.gpr.dx)],
      ∃ t, exec p.1 s = .next t ∧ t.busLog = s.busLog ++ [.io p.2 (lowByte s.gpr.ax)] ∧ t.gpr = s.gpr ∧
        s.memSame t ∧ t.stale = s.stale ∧ t.flags = s.flags ∧ s.straight t) ∧
    (∀ p ∈ [(Instr.outPortAcc .word port, BitVec.ofNat 16 port.toNat), (Instr.outDxAcc .word, s.gpr.dx)],
      ∃ t, exec p.1 s = .next t ∧
        t.busLog = s.busLog ++ [.io p.2 (lowByte s.gpr.ax), .io (p.2 + 1) (highByte s.gpr.ax)] ∧ t.gpr = s.gpr ∧
        s.memSame t ∧ t.stale = s.stale ∧ t.flags = s.flags ∧ s.straight t)

/-- R172 to R175: XLAT looks AL up in the table at BX; LEA loads the effective address; LDS and LES load a register with the
offset word at EA and DS or ES with the segment word at EA + 2, both read first, with a gap for other masters between the two
words (R80: `yieldBus`). -/
def Obligations.AddressLoads : Prop :=
  ∀ s : State,
    (∃ t, exec .xlat s = .next t ∧ s.gpr.onlyByte t.gpr .r000
      (s.read8 (s.segOr .ds) (BitVec.ofNat 16 (s.gpr.bx.toNat + s.gpr.ax.toNat % 256))) ∧ s.noStore t ∧
      t.flags = s.flags ∧ s.straight t) ∧
    (∀ r m, ∃ t, exec (.lea r m) s = .next t ∧ s.gpr.onlyWord t.gpr r (s.ea m) ∧ s.noStore t ∧ t.flags = s.flags ∧
      s.straight t) ∧
    (∀ r m, ∀ p ∈ [(Instr.lds r m, SegReg.ds), (Instr.les r m, SegReg.es)], ∃ t, exec p.1 s = .next t ∧
      s.gpr.onlyWord t.gpr r (s.read16 (s.segEff m) (s.ea m)) ∧
      s.sregs.only t.sregs p.2 (s.yieldBus.read16 (s.segEff m) (s.ea m + 2)) ∧ s.yieldBus.noStore t ∧ t.ip = s.ip ∧
      t.flags = s.flags ∧ s.yieldBus.restSame t)

/-- R176, R177: LAHF (9FH) builds AH as SF : ZF : x5 : AF : x3 : PF : x1 : CF with the X positions from the parameter, and
changes no flag; SAHF (9EH) loads five flags from AH and leaves the other four. R178, R179, R38: PUSHF (9CH) stores the nine
flags in their positions and the X positions of the parameter; POPF (9DH) loads all nine flags from the word at SS : SP,
ignores its other bits and sets no interrupt delay. -/
def Obligations.FlagTransfers : Prop :=
  encodedAs .lahf [0x9F] ∧ encodedAs .sahf [0x9E] ∧ encodedAs .pushf [0x9C] ∧ encodedAs .popf [0x9D] ∧ ∀ s : State,
    (∃ t v, exec .lahf s = .next t ∧ s.gpr.onlyByte t.gpr .r100 v ∧
      v.getLsbD 7 = s.flags.SF ∧ v.getLsbD 6 = s.flags.ZF ∧ v.getLsbD 5 = s.plat.flagsImage.getLsbD 5 ∧
      v.getLsbD 4 = s.flags.AF ∧ v.getLsbD 3 = s.plat.flagsImage.getLsbD 3 ∧ v.getLsbD 2 = s.flags.PF ∧
      v.getLsbD 1 = s.plat.flagsImage.getLsbD 1 ∧ v.getLsbD 0 = s.flags.CF ∧ s.noStore t ∧ t.flags = s.flags ∧
      s.straight t) ∧
    (∃ t, exec .sahf s = .next t ∧ t.flags.SF = s.gpr.ax.getLsbD 15 ∧ t.flags.ZF = s.gpr.ax.getLsbD 14 ∧
      t.flags.AF = s.gpr.ax.getLsbD 12 ∧ t.flags.PF = s.gpr.ax.getLsbD 10 ∧ t.flags.CF = s.gpr.ax.getLsbD 8 ∧
      t.flags.OF = s.flags.OF ∧ s.flags.controlsSame t.flags ∧ s.flagsOnly t) ∧
    (∃ t v, exec .pushf s = .next t ∧ s.pushed t v ∧
      v.getLsbD 0 = s.flags.CF ∧ v.getLsbD 2 = s.flags.PF ∧ v.getLsbD 4 = s.flags.AF ∧ v.getLsbD 6 = s.flags.ZF ∧
      v.getLsbD 7 = s.flags.SF ∧ v.getLsbD 8 = s.flags.TF ∧ v.getLsbD 9 = s.flags.IF ∧ v.getLsbD 10 = s.flags.DF ∧
      v.getLsbD 11 = s.flags.OF ∧ (∀ k ∈ [15, 14, 13, 12, 5, 3, 1], v.getLsbD k = s.plat.flagsImage.getLsbD k) ∧
      t.flags = s.flags ∧ s.straight t) ∧
    (∃ t v, exec .popf s = .next t ∧ v = s.read16 s.sregs.ss s.gpr.sp ∧ s.gpr.onlyWord t.gpr .r100 (s.gpr.sp + 2) ∧
      t.flags.CF = v.getLsbD 0 ∧ t.flags.PF = v.getLsbD 2 ∧ t.flags.AF = v.getLsbD 4 ∧ t.flags.ZF = v.getLsbD 6 ∧
      t.flags.SF = v.getLsbD 7 ∧ t.flags.TF = v.getLsbD 8 ∧ t.flags.IF = v.getLsbD 9 ∧ t.flags.DF = v.getLsbD 10 ∧
      t.flags.OF = v.getLsbD 11 ∧ s.noStore t ∧ s.straight t)

/-! ### Arithmetic -/

/-- R201 to R206: ADD and ADC write destination + source (+ CF) modulo 2^N and all six arithmetic flags;
between the read and the write of a destination in memory another master may write (R71, R484: `operandGap`). -/
def Obligations.AddAdcForms : Prop :=
  ∀ s : State,
    let done (t : State) (w : Width) (dst : RM) (b : BitVec w.bits) (c : Bool) : Prop :=
      (s.operandGap dst).wroteRm t w dst (BitVec.ofNat w.bits ((s.rmRead w dst).toNat + b.toNat + c.toNat)) ∧
        s.flags.sum t.flags (s.rmRead w dst) b c ∧ (s.operandGap dst).straight t
    (∀ d w rm r, ∀ p ∈ [(Instr.addRmReg d w rm r, false), (Instr.adcRmReg d w rm r, s.flags.CF)],
      ∃ t, exec p.1 s = .next t ∧ done t w (destOf d rm r) (s.rmRead w (sourceOf d rm r)) p.2) ∧
    (∀ rm imm, ∀ p ∈ [(Instr.addRmImm rm imm, false), (Instr.adcRmImm rm imm, s.flags.CF)],
      ∃ t, exec p.1 s = .next t ∧ done t imm.width rm (Imm.value imm) p.2) ∧
    (∀ rm v, ∀ p ∈ [(Instr.addRmImmSx rm v, false), (Instr.adcRmImmSx rm v, s.flags.CF)],
      ∃ t, exec p.1 s = .next t ∧ done t .word rm (BitVec.ofInt 16 v.toInt) p.2) ∧
    (∀ imm, ∀ p ∈ [(Instr.addAccImm imm, false), (Instr.adcAccImm imm, s.flags.CF)],
      ∃ t, exec p.1 s = .next t ∧ done t imm.width (.reg .r000) (Imm.value imm) p.2)

/-- R212 to R217: SUB and SBB write destination - source (- CF) modulo 2^N and all six arithmetic flags;
between the read and the write of a destination in memory another master may write (R71, R484: `operandGap`). -/
def Obligations.SubSbbForms : Prop :=
  ∀ s : State,
    let done (t : State) (w : Width) (dst : RM) (b : BitVec w.bits) (c : Bool) : Prop :=
      (s.operandGap dst).wroteRm t w dst (BitVec.ofNat w.bits (difference (s.rmRead w dst) b c)) ∧
        s.flags.difference t.flags (s.rmRead w dst) b c ∧ (s.operandGap dst).straight t
    (∀ d w rm r, ∀ p ∈ [(Instr.subRmReg d w rm r, false), (Instr.sbbRmReg d w rm r, s.flags.CF)],
      ∃ t, exec p.1 s = .next t ∧ done t w (destOf d rm r) (s.rmRead w (sourceOf d rm r)) p.2) ∧
    (∀ rm imm, ∀ p ∈ [(Instr.subRmImm rm imm, false), (Instr.sbbRmImm rm imm, s.flags.CF)],
      ∃ t, exec p.1 s = .next t ∧ done t imm.width rm (Imm.value imm) p.2) ∧
    (∀ rm v, ∀ p ∈ [(Instr.subRmImmSx rm v, false), (Instr.sbbRmImmSx rm v, s.flags.CF)],
      ∃ t, exec p.1 s = .next t ∧ done t .word rm (BitVec.ofInt 16 v.toInt) p.2) ∧
    (∀ imm, ∀ p ∈ [(Instr.subAccImm imm, false), (Instr.sbbAccImm imm, s.flags.CF)],
      ∃ t, exec p.1 s = .next t ∧ done t imm.width (.reg .r000) (Imm.value imm) p.2)

/-- R222 to R224: CMP writes the flags of destination - source and nothing else; afterwards ZF says equal, CF below
(unsigned), SF != OF less (signed). -/
def Obligations.CmpForms : Prop :=
  ∀ s : State,
    let done (t : State) (w : Width) (a b : BitVec w.bits) : Prop :=
      s.flags.difference t.flags a b false ∧ s.flagsOnly t ∧ (t.flags.ZF = true ↔ a = b) ∧
        (t.flags.CF = true ↔ a.toNat < b.toNat) ∧ ((t.flags.SF != t.flags.OF) = true ↔ a.toInt < b.toInt)
    (∀ d w rm r, ∃ t, exec (.cmpRmReg d w rm r) s = .next t ∧
      done t w (s.rmRead w (destOf d rm r)) (s.rmRead w (sourceOf d rm r))) ∧
    (∀ rm imm, ∃ t, exec (.cmpRmImm rm imm) s = .next t ∧ done t imm.width (s.rmRead imm.width rm) (Imm.value imm)) ∧
    (∀ rm v, ∃ t, exec (.cmpRmImmSx rm v) s = .next t ∧
      done t .word (s.rmRead .word rm) (BitVec.ofInt 16 v.toInt)) ∧
    (∀ imm, ∃ t, exec (.cmpAccImm imm) s = .next t ∧
      done t imm.width (s.gpr.getW imm.width .r000) (Imm.value imm))

/-- R207, R208, R218, R219: INC adds 1 and DEC subtracts 1 with the flags of ADD and SUB, but CF does not
change; between the read and the write of memory another master may write (R71, R484: `operandGap`). -/
def Obligations.IncDecForms : Prop :=
  ∀ s : State,
    let up (t : State) (w : Width) (rm : RM) : Prop :=
      (s.operandGap rm).wroteRm t w rm (BitVec.ofNat w.bits ((s.rmRead w rm).toNat + 1)) ∧
        s.flags.sumBut t.flags (s.rmRead w rm) (BitVec.ofNat w.bits 1) false ∧ t.flags.CF = s.flags.CF ∧
        (s.operandGap rm).straight t
    let down (t : State) (w : Width) (rm : RM) : Prop :=
      (s.operandGap rm).wroteRm t w rm
          (BitVec.ofNat w.bits (difference (s.rmRead w rm) (BitVec.ofNat w.bits 1) false)) ∧
        s.flags.differenceBut t.flags (s.rmRead w rm) (BitVec.ofNat w.bits 1) false ∧ t.flags.CF = s.flags.CF ∧
        (s.operandGap rm).straight t
    (∀ rm, ∃ t, exec (.incRm8 rm) s = .next t ∧ up t .byte rm) ∧
    (∀ rm, ∃ t, exec (.incRm16 rm) s = .next t ∧ up t .word rm) ∧
    (∀ r, ∃ t, exec (.incReg16 r) s = .next t ∧ up t .word (.reg r)) ∧
    (∀ rm, ∃ t, exec (.decRm8 rm) s = .next t ∧ down t .byte rm) ∧
    (∀ rm, ∃ t, exec (.decRm16 rm) s = .next t ∧ down t .word rm) ∧
    (∀ r, ∃ t, exec (.decReg16 r) s = .next t ∧ down t .word (.reg r))

/-- R221, R250: NEG writes 0 - operand with the flags of that subtraction: in effect CF = 1 unless the operand is 0, OF = 1
only for 80H (8000H). NOT complements every bit and changes no flag. Between the read and the write of memory another
master may write (R71, R484: `operandGap`). -/
def Obligations.NegNotForms : Prop :=
  ∀ (s : State) (w : Width) (rm : RM),
    (∃ t, exec (.negRm w rm) s = .next t ∧
      (s.operandGap rm).wroteRm t w rm (BitVec.ofNat w.bits (2 ^ w.bits - (s.rmRead w rm).toNat)) ∧
      s.flags.difference t.flags 0 (s.rmRead w rm) false ∧ (s.operandGap rm).straight t ∧
      (t.flags.CF = true ↔ (s.rmRead w rm).toNat ≠ 0) ∧
      (t.flags.OF = true ↔ (s.rmRead w rm).toNat = 2 ^ (w.bits - 1)) ∧
      (t.flags.AF = true ↔ (s.rmRead w rm).toNat % 16 ≠ 0)) ∧
    (∃ t, exec (.notRm w rm) s = .next t ∧
      (s.operandGap rm).wroteRm t w rm (BitVec.ofNat w.bits (2 ^ w.bits - 1 - (s.rmRead w rm).toNat)) ∧
      t.flags = s.flags ∧ (s.operandGap rm).straight t)

/-- R210, R225: AAA (37H) and AAS (3FH) adjust AL by 6 and AH by 1 when the low nibble of AL is above 9 or AF is 1, keep the
low nibble of AL, and set AF and CF to whether they adjusted; OF, SF, ZF, PF are undefined; nothing else changes. -/
def Obligations.AaaAas : Prop :=
  encodedAs .aaa [0x37] ∧ encodedAs .aas [0x3F] ∧ ∀ s : State,
    let al := s.gpr.ax.toNat % 256
    let ah := s.gpr.ax.toNat / 256
    let adjusts : Prop := 9 < al % 16 ∨ s.flags.AF = true
    (∃ t, exec .aaa s = .next t ∧
      (adjusts → s.gpr.onlyWord t.gpr .r000 (BitVec.ofNat 16 ((ah + 1) % 256 * 256 + (al + 6) % 16))) ∧
      (¬ adjusts → s.gpr.onlyWord t.gpr .r000 (BitVec.ofNat 16 (ah * 256 + al % 16))) ∧
      (t.flags.AF = true ↔ adjusts) ∧ (t.flags.CF = true ↔ adjusts) ∧ s.flags.controlsSame t.flags ∧ s.noStore t ∧
      s.straight t) ∧
    (∃ t, exec .aas s = .next t ∧
      (adjusts → s.gpr.onlyWord t.gpr .r000 (BitVec.ofNat 16 ((ah + 255) % 256 * 256 + (al + 250) % 16))) ∧
      (¬ adjusts → s.gpr.onlyWord t.gpr .r000 (BitVec.ofNat 16 (ah * 256 + al % 16))) ∧
      (t.flags.AF = true ↔ adjusts) ∧ (t.flags.CF = true ↔ adjusts) ∧ s.flags.controlsSame t.flags ∧ s.noStore t ∧
      s.straight t)

/-- R211, R226: DAA and DAS write AL and CF, AF, SF, ZF, PF by their two tests (low nibble above 9 or AF; AL above 99H or
CF), both on the old AL; OF is undefined. In the few states of U3 AL and the flags are any value; in every state TF, IF,
DF and everything outside AL and FLAGS stay. -/
def Obligations.DaaDas : Prop :=
  ∀ s : State,
    let al := s.gpr.ax.toNat % 256
    let low : Prop := 9 < al % 16 ∨ s.flags.AF = true
    let high : Prop := 0x99 < al ∨ s.flags.CF = true
    let open1 : Prop := (0x9A ≤ al ∧ al ≤ 0x9F) ∧ s.flags.AF = true ∧ s.flags.CF = false
    let open2 : Prop := al ≤ 5 ∧ s.flags.AF = true ∧ s.flags.CF = false
    (∃ t v, exec .daa s = .next t ∧ s.gpr.onlyByte t.gpr .r000 v ∧
      (¬ open1 → (t.flags.AF = true ↔ low) ∧ (t.flags.CF = true ↔ high) ∧ t.flags.szpOf 8 v.toNat ∧
        (low → high → v.toNat = (al + 0x66) % 256) ∧ (low → ¬ high → v.toNat = (al + 6) % 256) ∧
        (¬ low → high → v.toNat = (al + 0x60) % 256) ∧ (¬ low → ¬ high → v.toNat = al)) ∧
      s.flags.controlsSame t.flags ∧ s.noStore t ∧ s.straight t) ∧
    (∃ t v, exec .das s = .next t ∧ s.gpr.onlyByte t.gpr .r000 v ∧
      (¬ open1 → ¬ open2 → (t.flags.AF = true ↔ low) ∧ (t.flags.CF = true ↔ high) ∧ t.flags.szpOf 8 v.toNat ∧
        (low → high → v.toNat = (al + 0x9A) % 256) ∧ (low → ¬ high → v.toNat = (al + 0xFA) % 256) ∧
        (¬ low → high → v.toNat = (al + 0xA0) % 256) ∧ (¬ low → ¬ high → v.toNat = al)) ∧
      s.flags.controlsSame t.flags ∧ s.noStore t ∧ s.straight t)

/-- R211, R203: ADD of two packed decimal bytes to AL followed by DAA leaves their decimal sum modulo 100 in AL, packed, and
the decimal carry in CF. -/
def Obligations.DecimalAddition : Prop :=
  ∀ (s t : State) (a1 a0 b1 b0 : Nat), a1 < 10 → a0 < 10 → b1 < 10 → b0 < 10 →
    s.gpr.ax.toNat % 256 = a1 * 16 + a0 → exec (.addAccImm (.byte (BitVec.ofNat 8 (b1 * 16 + b0)))) s = .next t →
      ∃ u, exec .daa t = .next u ∧ (u.flags.CF = true ↔ 100 ≤ (a1 + b1) * 10 + a0 + b0) ∧
        u.gpr.ax.toNat % 256 =
          ((a1 + b1) * 10 + a0 + b0) % 100 / 10 * 16 + ((a1 + b1) * 10 + a0 + b0) % 10

/-- R232, R235: AAM (D4H 0AH) leaves AL / 10 in AH and AL mod 10 in AL; AAD (D5H 0AH) leaves AH * 10 + AL modulo 256 in AL
and 0 in AH; SF, ZF, PF are AL's, OF, AF, CF undefined; nothing else changes. Any other second byte is reserved (R119) and
refused. -/
def Obligations.AamAad : Prop :=
  encodedAs .aam [0xD4, 0x0A] ∧ encodedAs .aad [0xD5, 0x0A] ∧
    (∀ b : Byte, b ≠ 0x0A → encodedAs (.resD4 b) [0xD4, b] ∧ encodedAs (.resD5 b) [0xD5, b]) ∧ ∀ s : State,
    (∀ b, ∃ x y, exec (.resD4 b) s = .refused (.reservedEncoding x) ∧ exec (.resD5 b) s = .refused (.reservedEncoding y)) ∧
    let al := s.gpr.ax.toNat % 256
    let ah := s.gpr.ax.toNat / 256
    (∃ t, exec .aam s = .next t ∧ s.gpr.onlyWord t.gpr .r000 (BitVec.ofNat 16 (al / 10 * 256 + al % 10)) ∧
      t.flags.szpOf 8 (al % 10) ∧ s.flags.controlsSame t.flags ∧ s.noStore t ∧ s.straight t) ∧
    (∃ t, exec .aad s = .next t ∧ s.gpr.onlyWord t.gpr .r000 (BitVec.ofNat 16 ((ah * 10 + al) % 256)) ∧
      t.flags.szpOf 8 ((ah * 10 + al) % 256) ∧ s.flags.controlsSame t.flags ∧ s.noStore t ∧ s.straight t)

/-- R227, R229: the exact product of AL or AX and the operand, read first, is left in AX or DX : AX; CF = OF = 1 where it
does not fit the lower half, unsigned for MUL, signed for IMUL; SF, ZF, AF, PF are undefined. -/
def Obligations.MulImulForms : Prop :=
  ∀ (s : State) (rm : RM),
    let rest (t : State) (fits : Prop) : Prop :=
      (t.flags.CF = true ↔ ¬ fits) ∧ (t.flags.OF = true ↔ ¬ fits) ∧ s.flags.controlsSame t.flags ∧ s.noStore t ∧
        s.straight t
    (∃ t v, exec (.mulRm .byte rm) s = .next t ∧ s.gpr.onlyWord t.gpr .r000 v ∧
      v.toNat = s.gpr.ax.toNat % 256 * (s.rmRead .byte rm).toNat ∧ rest t (v.toNat < 256)) ∧
    (∃ t, exec (.mulRm .word rm) s = .next t ∧
      t.gpr.dx.toNat * 65536 + t.gpr.ax.toNat = s.gpr.ax.toNat * (s.rmRead .word rm).toNat ∧
      (∀ x, x ≠ .r000 → x ≠ .r010 → t.gpr.get x = s.gpr.get x) ∧
      rest t (s.gpr.ax.toNat * (s.rmRead .word rm).toNat < 65536)) ∧
    (∃ t v, exec (.imulRm .byte rm) s = .next t ∧ s.gpr.onlyWord t.gpr .r000 v ∧
      v.toInt = (s.gpr.getByte .r000).toInt * (s.rmRead .byte rm).toInt ∧ rest t (¬ tooBig 8 v.toInt)) ∧
    (∃ t, exec (.imulRm .word rm) s = .next t ∧
      t.gpr.dx.toInt * 65536 + t.gpr.ax.toNat = s.gpr.ax.toInt * (s.rmRead .word rm).toInt ∧
      (∀ x, x ≠ .r000 → x ≠ .r010 → t.gpr.get x = s.gpr.get x) ∧
      rest t (¬ tooBig 16 (s.gpr.ax.toInt * (s.rmRead .word rm).toInt)))

/-- R233, R234: where the divisor is not 0 and the quotient is in range (for IDIV the symmetric range of D12), DIV and IDIV
leave quotient and remainder in AL and AH, or AX and DX. For IDIV n = q * d + r, |r| < |d| and r has the sign of n: the
quotient is truncated toward zero. The six arithmetic flags are undefined; nothing else changes. -/
def Obligations.DivisionCompletes : Prop :=
  ∀ (s : State) (rm : RM),
    let rest (t : State) : Prop := s.flags.controlsSame t.flags ∧ s.noStore t ∧ s.straight t
    let right (n d q r : Int) : Prop := q * d + r = n ∧ r.natAbs < d.natAbs ∧ (r < 0 → n < 0) ∧ (0 < r → 0 < n)
    (let d := (s.rmRead .byte rm).toNat
     let n := s.gpr.ax.toNat
     d ≠ 0 → n / d ≤ 255 → ∃ t, exec (.divRm .byte rm) s = .next t ∧
       s.gpr.onlyWord t.gpr .r000 (BitVec.ofNat 16 (n % d * 256 + n / d)) ∧ rest t) ∧
    (let d := (s.rmRead .word rm).toNat
     let n := s.gpr.dx.toNat * 65536 + s.gpr.ax.toNat
     d ≠ 0 → n / d ≤ 65535 → ∃ t, exec (.divRm .word rm) s = .next t ∧ t.gpr.ax.toNat = n / d ∧
       t.gpr.dx.toNat = n % d ∧ (∀ x, x ≠ .r000 → x ≠ .r010 → t.gpr.get x = s.gpr.get x) ∧ rest t) ∧
    (let d := (s.rmRead .byte rm).toInt
     let n := s.gpr.ax.toInt
     d ≠ 0 → -127 ≤ n.tdiv d → n.tdiv d ≤ 127 → ∃ t, exec (.idivRm .byte rm) s = .next t ∧
       right n d (t.gpr.getByte .r000).toInt (t.gpr.getByte .r100).toInt ∧
       (∀ x, x ≠ .r000 → t.gpr.get x = s.gpr.get x) ∧ rest t) ∧
    (let d := (s.rmRead .word rm).toInt
     let n := s.gpr.dx.toInt * 65536 + s.gpr.ax.toNat
     d ≠ 0 → -32767 ≤ n.tdiv d → n.tdiv d ≤ 32767 → ∃ t, exec (.idivRm .word rm) s = .next t ∧
       right n d t.gpr.ax.toInt t.gpr.dx.toInt ∧ (∀ x, x ≠ .r000 → x ≠ .r010 → t.gpr.get x = s.gpr.get x) ∧ rest t)

/-- R418, R233, R234: a divisor of 0 or a quotient out of range takes interrupt type 0 with the offset after the DIV or
IDIV saved; quotient and remainder registers and the six arithmetic flags are any value, in the pushed FLAGS too. No NMI
is latched and TF is 0, so that nothing is chained (R430); chaining is the matter of ChainedInterrupts. That a LOCK before the
DIV no longer covers the sequence is the model's choice (log 25). -/
def Obligations.DivideErrorTraps : Prop :=
  ∀ (s : State) (w : Width) (rm : RM), ∀ i ∈ [Instr.divRm w rm, Instr.idivRm w rm], s.raises i 0 →
    s.nmiLatch = false → s.flags.TF = false → s.frameOverlaps 0 = false → s.pointerInMemory 0 = true →
      ∃ u q : State, exec i s = .next u ∧ q.took u 0 s.ip ∧ s.flags.controlsSame q.flags ∧
        (∀ x, x ≠ .r000 → (w = .word → x ≠ .r010) → q.gpr.get x = s.gpr.get x) ∧
        q = { s with gpr := q.gpr, flags := q.flags, freeIx := q.freeIx, pfx := { s.pfx with lock := false } } ∧
        u.entered = true ∧ u.nmiLatch = false

/-- R237, R238: CBW (98H) extends AL into AX, CWD (99H) extends AX into DX, by the sign; no flag changes. -/
def Obligations.CbwCwd : Prop :=
  encodedAs .cbw [0x98] ∧ encodedAs .cwd [0x99] ∧ ∀ s : State,
    (∃ t v, exec .cbw s = .next t ∧ s.gpr.onlyWord t.gpr .r000 v ∧ v.toInt = (s.gpr.getByte .r000).toInt ∧
      s.noStore t ∧ t.flags = s.flags ∧ s.straight t) ∧
    (∃ t v, exec .cwd s = .next t ∧ s.gpr.onlyWord t.gpr .r010 v ∧ v.toInt * 65536 + s.gpr.ax.toNat = s.gpr.ax.toInt ∧
      s.noStore t ∧ t.flags = s.flags ∧ s.straight t)

/-! ### Logic, shifts and rotates -/

/-- R259 to R271: AND, OR, XOR write the bitwise result and TEST writes none; CF = OF = 0, SF, ZF, PF are the result's, AF
is undefined, TF, IF, DF stay; between the read and the write of memory another master may write (R71, R484: `operandGap`). -/
def Obligations.BooleanForms : Prop :=
  ∀ s : State,
    let done (t : State) (w : Width) (dst : RM) (v : Nat) : Prop :=
      (s.operandGap dst).wroteRm t w dst (BitVec.ofNat w.bits v) ∧ s.flags.logic t.flags w.bits v ∧
        (s.operandGap dst).straight t
    let tested (t : State) (w : Width) (v : Nat) : Prop := s.flags.logic t.flags w.bits v ∧ s.flagsOnly t
    (∀ d w rm r,
      let a := (s.rmRead w rm).toNat
      let b := (s.gpr.getW w r).toNat
      (∀ p ∈ [(Instr.andRmReg d w rm r, a &&& b), (Instr.orRmReg d w rm r, a ||| b), (Instr.xorRmReg d w rm r, a ^^^ b)],
        ∃ t, exec p.1 s = .next t ∧ done t w (destOf d rm r) p.2) ∧
      ∃ t, exec (.testRmReg w rm r) s = .next t ∧ tested t w (a &&& b)) ∧
    (∀ rm imm,
      let a := (s.rmRead imm.width rm).toNat
      let b := (Imm.value imm).toNat
      (∀ p ∈ [(Instr.andRmImm rm imm, a &&& b), (Instr.orRmImm rm imm, a ||| b), (Instr.xorRmImm rm imm, a ^^^ b)],
        ∃ t, exec p.1 s = .next t ∧ done t imm.width rm p.2) ∧
      ∃ t, exec (.testRmImm rm imm) s = .next t ∧ tested t imm.width (a &&& b)) ∧
    (∀ imm,
      let a := (s.gpr.getW imm.width .r000).toNat
      let b := (Imm.value imm).toNat
      (∀ p ∈ [(Instr.andAccImm imm, a &&& b), (Instr.orAccImm imm, a ||| b), (Instr.xorAccImm imm, a ^^^ b)],
        ∃ t, exec p.1 s = .next t ∧ done t imm.width (.reg .r000) p.2) ∧
      ∃ t, exec (.testAccImm imm) s = .next t ∧ tested t imm.width (a &&& b))

/-- R251 to R254: a shift by k, 1 or all 8 bits of CL and not 0, leaves a * 2^k modulo 2^N (SHL), a div 2^k (SHR) or
floor(signed a / 2^k) (SAR); CF is the last bit moved out, also for k of N and more; OF is defined for k = 1 only.
Between the read and the write of memory another master may write (R71, R484: `operandGap`). -/
def Obligations.ShiftForms : Prop :=
  ∀ (s : State) (byCl : Bool) (w : Width) (rm : RM),
    let k := if byCl then s.gpr.cx.toNat % 256 else 1
    let a := s.rmRead w rm
    let done (t : State) (v : BitVec w.bits) (carry overflow : Prop) : Prop :=
      (s.operandGap rm).wroteRm t w rm v ∧ s.flags.shifted t.flags w.bits v.toNat k carry overflow ∧
        (s.operandGap rm).straight t
    k ≠ 0 →
      (∃ t, exec (.shlRm byCl w rm) s = .next t ∧ done t (BitVec.ofNat w.bits (a.toNat * 2 ^ k))
        (k ≤ w.bits ∧ a.toNat.testBit (w.bits - k) = true) (tooBig w.bits (2 * a.toInt))) ∧
      (∃ t, exec (.shrRm byCl w rm) s = .next t ∧ done t (BitVec.ofNat w.bits (a.toNat / 2 ^ k))
        (a.toNat.testBit (k - 1) = true) (2 ^ (w.bits - 1) ≤ a.toNat)) ∧
      (∃ t, exec (.sarRm byCl w rm) s = .next t ∧ done t (BitVec.ofInt w.bits (a.toInt / 2 ^ k))
        (a.toInt / 2 ^ (k - 1) % 2 = 1) False)

/-- R251, R255 to R258: a rotate by k, 1 or all 8 bits of CL and not 0: ROL and ROR rotate the operand, RCL and RCR the
N + 1 bits of CF : operand; they write CF and OF only, OF defined for k = 1 only. Between the read and the write of memory
another master may write (R71, R484: `operandGap`). -/
def Obligations.RotateForms : Prop :=
  ∀ (s : State) (byCl : Bool) (w : Width) (rm : RM),
    let k := if byCl then s.gpr.cx.toNat % 256 else 1
    let a := s.rmRead w rm
    let left (t : State) (v : BitVec w.bits) (c : Bool) : Prop :=
      (s.operandGap rm).wroteRm t w rm v ∧ s.flags.rotated t.flags k c (v.msb ^^ c) ∧ (s.operandGap rm).straight t
    let right (t : State) (v : BitVec w.bits) (c : Bool) : Prop :=
      (s.operandGap rm).wroteRm t w rm v ∧ s.flags.rotated t.flags k c (v.msb ^^ v.getLsbD (w.bits - 2)) ∧
        (s.operandGap rm).straight t
    k ≠ 0 →
      (∃ t, exec (.rolRm byCl w rm) s = .next t ∧ left t (a.rotateLeft k) ((a.rotateLeft k).getLsbD 0)) ∧
      (∃ t, exec (.rorRm byCl w rm) s = .next t ∧ right t (a.rotateRight k) (a.rotateRight k).msb) ∧
      (∃ t v c, exec (.rclRm byCl w rm) s = .next t ∧ left t v c ∧
        BitVec.cons c v = (BitVec.cons s.flags.CF a).rotateLeft k) ∧
      (∃ t v c, exec (.rcrRm byCl w rm) s = .next t ∧ right t v c ∧
        BitVec.cons c v = (BitVec.cons s.flags.CF a).rotateRight k)

/-- R251, U13: a shift or rotate by CL = 0 changes no register and no flag. Either nothing is stored, or the unchanged value
is written back to the operand, after the gap in which another master may write; where none writes, memory is as before. -/
def Obligations.ShiftByZero : Prop :=
  ∀ (s : State) (w : Width) (rm : RM), s.gpr.cx.toNat % 256 = 0 →
    ∀ i ∈ [Instr.rolRm true w rm, Instr.rorRm true w rm, Instr.rclRm true w rm, Instr.rcrRm true w rm,
        Instr.shlRm true w rm, Instr.shrRm true w rm, Instr.sarRm true w rm],
      ∃ t, exec i s = .next t ∧ t.gpr = s.gpr ∧ t.flags = s.flags ∧
        ((s.noStore t ∧ s.straight t) ∨
          ((s.operandGap rm).wroteRm t w rm (s.rmRead w rm) ∧ (s.operandGap rm).straight t)) ∧
        (s.busQueue = [] → s.memSame t ∧ t.stale = s.stale ∧ s.straight t ∧ (s.plat.memMap = [] → t.busLog = s.busLog))

/-! ### String instructions -/

/-- R290, R291, R293, R296, R297: without a repeat prefix MOVS, LODS, STOS move one element from DS (or the override
segment) : SI or the accumulator to ES : DI or the accumulator, and step SI and DI up or down by DF; no flag changes.
Between the read and the write of MOVS another master may write (R80: `yieldBus`). -/
def Obligations.StringMoves : Prop :=
  ∀ (s : State) (w : Width), s.pfx.rep = none →
    let n : Int := if s.flags.DF then -(w.bits / 8 : Int) else w.bits / 8
    let next (x : Word) : Word := BitVec.ofInt 16 (x.toNat + n)
    let src := s.readW w (s.segOr .ds) s.gpr.si
    let rest (g t : State) : Prop :=
      t.flags = s.flags ∧ t.sregs = s.sregs ∧ t.ip = s.ip ∧ { g with running := none }.restSame t
    (∃ t, exec (.movs w) s = .next t ∧ s.yieldBus.stored t (operandBytes w s.sregs.es s.gpr.di src) ∧
      t.gpr = { s.gpr with si := next s.gpr.si, di := next s.gpr.di } ∧ rest s.yieldBus t) ∧
    (∃ t, exec (.lods w) s = .next t ∧ s.noStore t ∧
      t.gpr.getW w .r000 = src ∧ t.gpr.getByte .r100 = (match w with
        | .byte => s.gpr.getByte .r100
        | .word => highByte (t.gpr.getW .word .r000)) ∧
      t.gpr.si = next s.gpr.si ∧ (∀ x, x ≠ .r000 → x ≠ .r110 → t.gpr.get x = s.gpr.get x) ∧ rest s t) ∧
    (∃ t, exec (.stos w) s = .next t ∧ s.stored t (operandBytes w s.sregs.es s.gpr.di (s.gpr.getW w .r000)) ∧
      t.gpr = { s.gpr with di := next s.gpr.di } ∧ rest s t)

/-- R294, R295: without a repeat prefix CMPS compares the source element with the destination element and SCAS the
accumulator with the destination element; they write the flags of that subtraction, step SI and DI, or DI, and store
nothing. Between the two reads of CMPS another master may write (R80: `yieldBus`); where the destination element stands in
RAM or ROM its value is memory's, elsewhere it is what the bus answers, any value (R77, D17). -/
def Obligations.StringCompares : Prop :=
  ∀ (s : State) (w : Width), s.pfx.rep = none →
    let n : Int := if s.flags.DF then -(w.bits / 8 : Int) else w.bits / 8
    let next (x : Word) : Word := BitVec.ofInt 16 (x.toNat + n)
    let rest (g t : State) : Prop :=
      g.noStore t ∧ t.sregs = s.sregs ∧ t.ip = s.ip ∧ { g with running := none }.restSame t
    (∃ t dst, exec (.cmps w) s = .next t ∧ s.flags.difference t.flags (s.readW w (s.segOr .ds) s.gpr.si) dst false ∧
      (s.inMemory w s.sregs.es s.gpr.di = true → dst = s.yieldBus.readW w s.sregs.es s.gpr.di) ∧
      t.gpr = { s.gpr with si := next s.gpr.si, di := next s.gpr.di } ∧ rest s.yieldBus t) ∧
    (∃ t, exec (.scas w) s = .next t ∧
      s.flags.difference t.flags (s.gpr.getW w .r000) (s.readW w s.sregs.es s.gpr.di) false ∧
      t.gpr = { s.gpr with di := next s.gpr.di } ∧ rest s t)

/-- R292: under a repeat prefix a turn with CX = 0 executes nothing; else it does what the primitive does alone, counts CX
down without a flag, and goes on exactly while CX is not 0 and, for CMPS and SCAS, ZF is still z. -/
def Obligations.RepeatTurn : Prop :=
  ∀ (s : State) (i : Instr) (z : Bool), Instr.isString i = true → s.pfx.rep = some z →
    (s.gpr.cx = 0 → exec i s = .next { s with running := none }) ∧
    (s.gpr.cx ≠ 0 → ∃ u, exec i { s with pfx := { s.pfx with rep := none } } = .next u ∧
      exec i s = .next { u with
        pfx := s.pfx
        gpr := { u.gpr with cx := s.gpr.cx - 1 }
        running := if s.gpr.cx = 1 ∨ (Instr.comparesZf i = true ∧ u.flags.ZF ≠ z) then none else some i })

/-! ### Control transfer -/

/-- R320 to R323: CALL pushes IP_next, an intersegment CALL first CS; the target, read before the pushes, is relative to
IP_next in the direct form within the segment, else absolute; the queue is emptied and no flag changes. Other masters may
write in the gap before every word but the first (R80: `operandGap`, `yieldBus`): the first push of an intersegment CALL is
that of PUSH CS, in the state after the two words of an operand in memory. -/
def Obligations.CallForms : Prop :=
  ∀ s : State,
    let near (g t : State) (ip : Word) : Prop :=
      g.gpr.onlyWord t.gpr .r100 (g.gpr.sp - 2) ∧ g.storedBytes t (wordBytes g.sregs.ss (g.gpr.sp - 2) g.ip) ∧
        g.jumped t ip
    let far (g t : State) (cs ip : Word) : Prop :=
      s.gpr.onlyWord t.gpr .r100 (s.gpr.sp - 4) ∧ t.ip = ip ∧ s.sregs.only t.sregs .cs cs ∧ t.flags = s.flags ∧
        (∃ m, exec .pushCs g = .next m ∧
          m.yieldBus.storedBytes t (wordBytes s.sregs.ss (s.gpr.sp - 4) s.ip) ∧ m.yieldBus.jumpedFar t cs ip) ∧
        (s.busQueue = [] → s.storedBytes t
          (wordBytes s.sregs.ss (s.gpr.sp - 2) s.sregs.cs ++ wordBytes s.sregs.ss (s.gpr.sp - 4) s.ip) ∧ s.restSame t)
    (∀ disp, ∃ t, exec (.callNear disp) s = .next t ∧ near s t (BitVec.ofNat 16 (s.ip.toNat + disp.toNat))) ∧
    (∀ rm, ∃ t, exec (.callNearInd rm) s = .next t ∧ near (s.operandGap rm) t (s.rmRead .word rm)) ∧
    (∀ off seg, ∃ t, exec (.callFar off seg) s = .next t ∧ far s t seg off) ∧
    (∀ m, ∃ t, exec (.callFarInd m) s = .next t ∧
      far s.yieldBus.yieldBus t (s.yieldBus.read16 (s.segEff m) (s.ea m + 2)) (s.read16 (s.segEff m) (s.ea m)))

/-- R325 to R329: JMP; only IP, or CS and IP, and the queue change; between the two words of an intersegment pointer in memory
another master may write (R80: `yieldBus`). -/
def Obligations.JmpForms : Prop :=
  ∀ s : State,
    let kept (g t : State) : Prop := t.gpr = s.gpr ∧ g.memSame t ∧ t.busLog = s.busLog
    (∀ disp, ∃ t, exec (.jmpNear disp) s = .next t ∧ s.jumped t (BitVec.ofNat 16 (s.ip.toNat + disp.toNat)) ∧ kept s t) ∧
    (∀ disp, ∃ t, exec (.jmpShort disp) s = .next t ∧ s.jumped t (BitVec.ofInt 16 (s.ip.toNat + disp.toInt)) ∧
      kept s t) ∧
    (∀ rm, ∃ t, exec (.jmpNearInd rm) s = .next t ∧ s.jumped t (s.rmRead .word rm) ∧ kept s t) ∧
    (∀ off seg, ∃ t, exec (.jmpFar off seg) s = .next t ∧ s.jumpedFar t seg off ∧ kept s t) ∧
    (∀ m, ∃ t, exec (.jmpFarInd m) s = .next t ∧
      s.yieldBus.jumpedFar t (s.yieldBus.read16 (s.segEff m) (s.ea m + 2)) (s.read16 (s.segEff m) (s.ea m)) ∧
      kept s.yieldBus t)

/-- R330 to R333: RET (C3H, C2H) pops IP, an intersegment RET (CBH, CAH) then CS; the immediate is added to SP after the
pops; no flag changes and nothing is stored. Between the two pops another master may write (R80: `yieldBus`). -/
def Obligations.RetForms : Prop :=
  encodedAs .ret [0xC3] ∧ (∀ n, encodedAs (.retImm n) [0xC2, lowByte n, highByte n]) ∧ encodedAs .retf [0xCB] ∧
    (∀ n, encodedAs (.retfImm n) [0xCA, lowByte n, highByte n]) ∧ ∀ s : State,
    let top := s.read16 s.sregs.ss s.gpr.sp
    let next := s.yieldBus.read16 s.sregs.ss (s.gpr.sp + 2)
    let kept (g t : State) (up : Nat) : Prop :=
      s.gpr.onlyWord t.gpr .r100 (BitVec.ofNat 16 (s.gpr.sp.toNat + up)) ∧ g.memSame t ∧ t.busLog = s.busLog
    (∃ t, exec .ret s = .next t ∧ s.jumped t top ∧ kept s t 2) ∧
    (∀ n, ∃ t, exec (.retImm n) s = .next t ∧ s.jumped t top ∧ kept s t (2 + n.toNat)) ∧
    (∃ t, exec .retf s = .next t ∧ s.yieldBus.jumpedFar t next top ∧ kept s.yieldBus t 4) ∧
    (∀ n, ∃ t, exec (.retfImm n) s = .next t ∧ s.yieldBus.jumpedFar t next top ∧ kept s.yieldBus t (4 + n.toNat))

/-- R340, R341, R345, R348 to R351: JO, JNO, JNE, JS, JNS, JP, JNP: taken to IP_next plus the signed byte, or falling through
with nothing changed. -/
def Obligations.JumpsOnOneFlag : Prop :=
  ∀ (s : State) (disp : Byte),
    ∀ p ∈ [(Instr.jo disp, (0x70#8, s.flags.OF)), (Instr.jno disp, (0x71#8, !s.flags.OF)),
        (Instr.jne disp, (0x75#8, !s.flags.ZF)),
        (Instr.js disp, (0x78#8, s.flags.SF)), (Instr.jns disp, (0x79#8, !s.flags.SF)),
        (Instr.jp disp, (0x7A#8, s.flags.PF)), (Instr.jnp disp, (0x7B#8, !s.flags.PF))],
      encodedAs p.1 [p.2.1, disp] ∧ ∃ t, exec p.1 s = .next t ∧ t.gpr = s.gpr ∧ s.memSame t ∧ t.busLog = s.busLog ∧
        (p.2.2 = true → s.jumped t (BitVec.ofInt 16 (s.ip.toNat + disp.toInt))) ∧ (p.2.2 = false → t = s)

/-- R342 to R344, R346, R347, R352 to R355: JB, JNB, JE, JBE, JNBE, JL, JNL, JLE, JNLE look at their flags; and after CMP a, b
(R222) they are taken exactly when a and b compare as their names say, unsigned for below and above, signed for less and
greater. -/
def Obligations.JumpsAfterCompare : Prop :=
  ∀ (s : State) (disp : Byte) (w : Width) (a b : BitVec w.bits),
    ∀ p ∈ [(Instr.jb disp, (0x72#8, (s.flags.CF = true : Prop), (a.toNat < b.toNat : Prop))),
        (Instr.jnb disp, (0x73#8, (s.flags.CF = false : Prop), (b.toNat ≤ a.toNat : Prop))),
        (Instr.je disp, (0x74#8, (s.flags.ZF = true : Prop), (a = b : Prop))),
        (Instr.jbe disp, (0x76#8, (s.flags.CF = true ∨ s.flags.ZF = true : Prop), (a.toNat ≤ b.toNat : Prop))),
        (Instr.jnbe disp, (0x77#8, (s.flags.CF = false ∧ s.flags.ZF = false : Prop), (b.toNat < a.toNat : Prop))),
        (Instr.jl disp, (0x7C#8, (s.flags.SF ≠ s.flags.OF : Prop), (a.toInt < b.toInt : Prop))),
        (Instr.jnl disp, (0x7D#8, (s.flags.SF = s.flags.OF : Prop), (b.toInt ≤ a.toInt : Prop))),
        (Instr.jle disp, (0x7E#8, (s.flags.ZF = true ∨ s.flags.SF ≠ s.flags.OF : Prop), (a.toInt ≤ b.toInt : Prop))),
        (Instr.jnle disp, (0x7F#8, (s.flags.ZF = false ∧ s.flags.SF = s.flags.OF : Prop), (b.toInt < a.toInt : Prop)))],
      encodedAs p.1 [p.2.1, disp] ∧
      (∃ t, exec p.1 s = .next t ∧ t.gpr = s.gpr ∧ s.memSame t ∧ t.busLog = s.busLog ∧
        (p.2.2.1 → s.jumped t (BitVec.ofInt 16 (s.ip.toNat + disp.toInt))) ∧ (¬ p.2.2.1 → t = s)) ∧
      (s.flags.difference s.flags a b false → (p.2.2.1 ↔ p.2.2.2))

/-- R356 to R359: LOOP, LOOPZ, LOOPNZ count CX down modulo 2^16 without a flag, and jump while it is not 0 and ZF is as they
say; JCXZ jumps where CX is 0 and does not count; E2H, E1H, E0H, E3H. -/
def Obligations.LoopForms : Prop :=
  ∀ (s : State) (disp : Byte),
    (∀ p ∈ [(Instr.loop disp, (0xE2#8, true)), (Instr.loopz disp, (0xE1#8, s.flags.ZF)),
        (Instr.loopnz disp, (0xE0#8, !s.flags.ZF))],
      encodedAs p.1 [p.2.1, disp] ∧ ∃ t, exec p.1 s = .next t ∧ s.gpr.onlyWord t.gpr .r001 (s.gpr.cx - 1) ∧
        s.memSame t ∧ t.busLog = s.busLog ∧
        (s.gpr.cx ≠ 1 ∧ p.2.2 = true → s.jumped t (BitVec.ofInt 16 (s.ip.toNat + disp.toInt))) ∧
        (¬ (s.gpr.cx ≠ 1 ∧ p.2.2 = true) → t.stale = s.stale ∧ t.flags = s.flags ∧ s.straight t)) ∧
    (encodedAs (.jcxz disp) [0xE3, disp] ∧ ∃ t, exec (.jcxz disp) s = .next t ∧ t.gpr = s.gpr ∧ s.memSame t ∧
      t.busLog = s.busLog ∧ (s.gpr.cx = 0 → s.jumped t (BitVec.ofInt 16 (s.ip.toNat + disp.toInt))) ∧
      (s.gpr.cx ≠ 0 → t = s))

/-! ### Interrupts -/

/-- R360 to R362, R430, R431: INT n, INT 3 and INTO with OF = 1 take one interrupt of their type with IP_next saved; INTO
with OF = 0 does nothing. No NMI is latched and TF is 0, so that nothing is chained (R430 steps 8, 9: ChainedInterrupts); the
frame does not meet the pointer, which stands in memory; where it meets the pointer the model refuses by name (U14). -/
def Obligations.SoftwareInterrupts : Prop :=
  ∀ s : State,
    (s.flags.OF = false → exec .into s = .next s) ∧
    ∀ (i : Instr) (t : Byte), i ∈ [Instr.intN t, .int3, .into] → s.raises i t →
      (s.frameOverlaps t = true → exec i s = .refused .frameOverlapsPointer) ∧
      (s.nmiLatch = false → s.flags.TF = false → s.frameOverlaps t = false → s.pointerInMemory t = true →
        ∃ u, exec i s = .next u ∧ s.took u t s.ip ∧ u.entered = true ∧ u.nmiLatch = false)

/-- R363: IRET (CFH) pops IP, CS and FLAGS in that order, SP going up by 2 each time, and changes nothing else; all nine
flags are loaded, the other bits of the word ignored (R38), and no interrupt delay is set. Between two pops another master
may write (R80: `yieldBus`). -/
def Obligations.InterruptReturn : Prop :=
  encodedAs .iret [0xCF] ∧ ∀ s : State, ∃ t v, exec .iret s = .next t ∧
    v = s.yieldBus.yieldBus.read16 s.sregs.ss (s.gpr.sp + 4) ∧
    t.ip = s.read16 s.sregs.ss s.gpr.sp ∧ s.sregs.only t.sregs .cs (s.yieldBus.read16 s.sregs.ss (s.gpr.sp + 2)) ∧
    t.flags.CF = v.getLsbD 0 ∧ t.flags.PF = v.getLsbD 2 ∧ t.flags.AF = v.getLsbD 4 ∧ t.flags.ZF = v.getLsbD 6 ∧
    t.flags.SF = v.getLsbD 7 ∧ t.flags.TF = v.getLsbD 8 ∧ t.flags.IF = v.getLsbD 9 ∧ t.flags.DF = v.getLsbD 10 ∧
    t.flags.OF = v.getLsbD 11 ∧ s.gpr.onlyWord t.gpr .r100 (s.gpr.sp + 6) ∧ s.yieldBus.yieldBus.memSame t ∧
    t.busLog = s.busLog ∧ t.stale = [] ∧ s.yieldBus.yieldBus.restSame t

/-- R431, R435: after a software interrupt on a stack of RAM that no other master writes, an IRET by its handler restores SP,
CS, IP and every flag. -/
def Obligations.InterruptThenReturn : Prop :=
  ∀ (s : State) (t : Byte), s.plat.memMap = [] → s.busQueue = [] → s.nmiLatch = false → s.flags.TF = false →
    s.frameOverlaps t = false →
      ∃ u v, exec (.intN t) s = .next u ∧ exec .iret u = .next v ∧ v.gpr = s.gpr ∧ v.sregs = s.sregs ∧ v.ip = s.ip ∧
        v.flags = s.flags

/-- R415, R426 to R428, R298, R47: at the end of an instruction, or of an element of a repeated string instruction or a turn
of WAIT, with nothing raised: nothing is recognised where the delay bit is set; else an NMI comes first and its latch is
cleared, then INTR where IF is 1, then the single step where TF was 1 when the instruction began (not of a WAIT that waits:
log 24), else nothing. The prefix state is cleared, but kept by an instruction that goes on without an interrupt. A repeated
string instruction that goes on has IP_next - 2 saved. Each entry here chains nothing (TF was 0, whatever it is now, or it
is the single step itself: D26, log 18); ChainedInterrupts states the others. -/
def Obligations.RecognitionOrder : Prop :=
  ∀ (s : State) (tf : Bool) (i : Instr), Instr.isPrefix i = false → s.entered = false →
    let after : State := if s.running = none ∧ s.waiting = false then { s with pfx := Prefixes.none } else s
    let start : State := { s.leaveIdle with nmiLatch := false }
    let back := if s.running = none then s.ip else s.ip - 2
    let calls : Bool := s.pins.intr && s.flags.IF
    (s.delay = true → boundary tf i s = .next { after with delay := false }) ∧
    (s.delay = false →
      (s.nmiLatch = true → tf = false → s.frameOverlaps 2 = false → s.pointerInMemory 2 = true →
        ∃ u, boundary tf i s = .next u ∧ start.took u 2 back ∧ u.nmiLatch = false) ∧
      (s.nmiLatch = false → calls = true → tf = false →
        s.frameOverlaps s.pins.intType = false → s.pointerInMemory s.pins.intType = true →
        ∃ u, boundary tf i s = .next u ∧ start.took u s.pins.intType back ∧ u.nmiLatch = false) ∧
      (s.nmiLatch = false → calls = false → tf = true → s.waiting = false → s.frameOverlaps 1 = false →
        s.pointerInMemory 1 = true →
        ∃ u, boundary tf i s = .next u ∧ start.took u 1 back ∧ u.nmiLatch = false) ∧
      (s.nmiLatch = false → calls = false → (tf = false ∨ s.waiting = true) → boundary tf i s = .next after))

/-- R416, R430 steps 8 and 9: an NMI latched, or a single step due, when INT, INTO, a divide error, an NMI or an INTR runs its
sequence has its own frame built on top before the first instruction of that handler: control is at the pointer of its
type, and the offset on top of the stack is the handler's that it interrupted. So an NMI met by INT or a divide error
runs first, and a single step runs first of all. A single step is due where TF was 1 when the instruction began, whatever TF
is at its end (R425, D26). Where it and an NMI both meet an internal interrupt, the routines run in the order single step,
NMI, internal (R416); that R416 and D26 hold there, and not the word for word listing of R430, is DEDUCED (log 18). -/
def Obligations.ChainedInterrupts : Prop :=
  ∀ s : State, s.plat.memMap = [] → s.busQueue = [] → s.stackAbovePointers = true →
    (∀ (i : Instr) (t : Byte), s.raises i t → ∃ u, exec i s = .next u ∧
      (s.nmiLatch = true → s.flags.TF = false → s.chained u t 2 12) ∧
      (s.nmiLatch = false → s.flags.TF = true → s.chained u t 1 12) ∧
      (s.nmiLatch = true → s.flags.TF = true →
        s.chained u 2 1 18 ∧ u.read16 u.sregs.ss (u.gpr.sp + 6) = s.wordAt (4 * t.toNat))) ∧
    (∀ (i : Instr) (tf : Bool) (t : Byte), s.entered = false → s.delay = false →
      ((s.nmiLatch = true ∧ t = 2) ∨
        (s.nmiLatch = false ∧ (s.pins.intr && s.flags.IF) = true ∧ t = s.pins.intType)) →
      ∃ u, boundary tf i s = .next u ∧
        (tf = true → s.chained u t 1 12) ∧
        (tf = false → u.gpr.sp = s.gpr.sp - 6 ∧ u.ip = s.wordAt (4 * t.toNat) ∧ u.sregs.cs = s.wordAt (4 * t.toNat + 2)))

/-- R396, D14: in the halt state, with the bus its own and no RESET, a step does nothing but serve the environment unless an
NMI is latched, or INTR is HIGH and IF is 1; then the interrupt is taken with the offset after the HLT saved, and the halt
state is left. TF does not end the halt state; where it is 1 the interrupt's sequence chains a single step (R430 step 9). -/
def Obligations.HaltWake : Prop :=
  ∀ s : State, s.halted = true → s.sampleInputs.pins.reset = false → s.pins.reset = false →
    (s.served.pins.hold && !s.served.busLocked) = false →
      let p := s.served
      let start : State := { p.leaveIdle with nmiLatch := false }
      p.halted = true ∧ p.gpr = s.gpr ∧ p.sregs = s.sregs ∧ p.ip = s.ip ∧ p.flags = s.flags ∧
      (p.nmiLatch = false → (p.pins.intr && p.flags.IF) = false → step s = .next p) ∧
      (p.nmiLatch = true → p.flags.TF = false → p.frameOverlaps 2 = false → p.pointerInMemory 2 = true →
        ∃ u, step s = .next u ∧ start.took u 2 s.ip ∧ u.nmiLatch = false) ∧
      (p.nmiLatch = false → p.pins.intr = true → p.flags.IF = true → p.flags.TF = false →
        p.frameOverlaps p.pins.intType = false → p.pointerInMemory p.pins.intType = true →
        ∃ u, step s = .next u ∧ start.took u p.pins.intType s.ip ∧ u.nmiLatch = false) ∧
      (p.flags.TF = true → p.plat.memMap = [] → p.busQueue = [] → p.stackAbovePointers = true → ∀ x,
        ((p.nmiLatch = true ∧ x = 2) ∨
          (p.nmiLatch = false ∧ (p.pins.intr && p.flags.IF) = true ∧ x = p.pins.intType)) →
        ∃ u, step s = .next u ∧ p.chained u x 1 12)

/-- R397, D25: a turn of a WAIT that waits tests TEST again with IP_next as it was. While TEST is HIGH, an NMI, or INTR with
IF = 1, is taken with the offset of the WAIT or of its first prefix saved (`start`, noted when its first byte was fetched);
with neither it goes on waiting, with its prefixes. Where TF is 1 the interrupt's sequence chains a single step (R430 step 9:
ChainedInterrupts, which holds of a WAIT that waits too); TF alone does not end the wait. How a turn keeps the two offsets is
the model's choice (log 14), and that a turn is not single-stepped is DEDUCED (log 24). -/
def Obligations.WaitTurn : Prop :=
  ∀ s : State,
    (s.waiting = true → s.halted = false → s.pfx.rep = none → s.sampleInputs.pins.reset = false →
      s.pins.reset = false → (s.served.pins.hold && !s.served.busLocked) = false →
        step s = andThen (exec .wait { s.served with ip := s.afterWait }) (boundary s.flags.TF .wait)) ∧
    (s.pins.testLow = false → s.entered = false → s.delay = false → s.running = none →
      ∃ t, exec .wait s = .next t ∧ t.start = s.start ∧ ∀ tf,
        let start : State := { t.leaveIdle with nmiLatch := false }
        (s.nmiLatch = true → tf = false → s.frameOverlaps 2 = false → s.pointerInMemory 2 = true →
          ∃ u, boundary tf .wait t = .next u ∧ start.took u 2 s.start ∧ u.nmiLatch = false) ∧
        (s.nmiLatch = false → s.pins.intr = true → s.flags.IF = true → tf = false →
          s.frameOverlaps s.pins.intType = false → s.pointerInMemory s.pins.intType = true →
          ∃ u, boundary tf .wait t = .next u ∧ start.took u s.pins.intType s.start ∧ u.nmiLatch = false) ∧
        (tf = true → s.plat.memMap = [] → s.busQueue = [] → s.stackAbovePointers = true → ∀ x,
          ((s.nmiLatch = true ∧ x = 2) ∨
            (s.nmiLatch = false ∧ (s.pins.intr && s.flags.IF) = true ∧ x = s.pins.intType)) →
          ∃ u, boundary tf .wait t = .next u ∧ s.chained u x 1 12) ∧
        (s.nmiLatch = false → (s.pins.intr && s.flags.IF) = false →
          boundary tf .wait t = .next t ∧ t.waiting = true ∧ t.pfx = s.pfx))

/-- R44, R426: a LOW to HIGH edge of NMI in a sample sets the latch, and without an edge it stays as it was. A step without
RESET leaves a set latch set, or takes the interrupt: the frame of type 2 is built below what the step performed, and control
is at the pointer of type 2 or, where TF was 1 when the step began, one frame further at that of the single step chained to
it, which returns to the handler of type 2 (R430 step 9; log 18); IF and TF are clear, the queue empty, no idle state and no prefix. A step never sets the latch by
itself, so that one edge gives one interrupt. -/
def Obligations.NmiLatch : Prop :=
  ∀ s : State,
    (∀ e rest, s.inputs = e :: rest → s.sampleInputs.nmiLatch = (s.nmiLatch || e.nmiEdge)) ∧
    (s.inputs = [] → s.sampleInputs.nmiLatch = s.nmiLatch) ∧
    (∀ t, step s = .next t → s.sampleInputs.pins.reset = false → s.pins.reset = false →
      (s.sampleInputs.nmiLatch = false → t.nmiLatch = false) ∧
      (s.sampleInputs.nmiLatch = true → t.nmiLatch = true ∨
        (t.flags.IF = false ∧ t.flags.TF = false ∧ t.stale = [] ∧ t.halted = false ∧ t.waiting = false ∧
          t.running = none ∧ t.pfx = Prefixes.none ∧
          (∃ sp, s.served.nmiFrameBelow sp ∧ t.gpr.sp = sp - (if s.flags.TF then 12 else 6)) ∧
          (s.plat.memMap = [] → s.served.busQueue = [] →
            t.ip = t.wordAt (if s.flags.TF then 4 else 8) ∧ t.sregs.cs = t.wordAt (if s.flags.TF then 6 else 10) ∧
            (s.flags.TF = true → (∀ k < 6, 12 ≤ (phys t.sregs.ss (t.gpr.sp + BitVec.ofNat 16 k)).toNat) →
              t.read16 t.sregs.ss t.gpr.sp = t.wordAt 8)))))

/-! ### Processor control -/

/-- R390 to R395: CLC (F8H), CMC (F5H), STC (F9H), CLD (FCH), STD (FDH), CLI (FAH) write their one flag and nothing else.
R398, R428: STI (FBH) sets IF; it sets the interrupt-delay bit exactly where IF was 0, so that a request pending then is not
recognised at its own end. -/
def Obligations.FlagOperations : Prop :=
  (encodedAs .clc [0xF8] ∧ encodedAs .cmc [0xF5] ∧ encodedAs .stc [0xF9] ∧ encodedAs .cld [0xFC] ∧
    encodedAs .std [0xFD] ∧ encodedAs .cli [0xFA] ∧ encodedAs .sti [0xFB]) ∧ ∀ s : State,
    (∀ p ∈ [(Instr.clc, { s.flags with CF := false }), (Instr.cmc, { s.flags with CF := !s.flags.CF }),
        (Instr.stc, { s.flags with CF := true }), (Instr.cld, { s.flags with DF := false }),
        (Instr.std, { s.flags with DF := true }), (Instr.cli, { s.flags with IF := false })],
      ∃ t, exec p.1 s = .next t ∧ t.flags = p.2 ∧ s.flagsOnly t) ∧
    (s.delay = false → ∃ t, exec .sti s = .next t ∧
      t.flags = { s.flags with IF := true } ∧ t.delay = !s.flags.IF ∧ t.gpr = s.gpr ∧ s.noStore t ∧
      t.sregs = s.sregs ∧ t.ip = s.ip ∧ { s with delay := t.delay }.restSame t ∧
      (s.flags.IF = false → s.entered = false → s.running = none → s.waiting = false →
        ∀ tf, ∃ u, boundary tf .sti t = .next u ∧ u.ip = s.ip ∧ u.sregs = s.sregs ∧ u.gpr = s.gpr ∧ u.delay = false ∧
          u.pfx = Prefixes.none))

/-- R396, R397, R399, R401: HLT enters the halt state; WAIT goes on where TEST is LOW, and else waits; ESC and NOP change
nothing. R397 and D25 give only the offset that an interrupt of the wait saves; that IP itself stands at the WAIT or its first
prefix while it waits, and that IP_next is kept beside it, is the model's choice (log 14). -/
def Obligations.HltWaitEscNop : Prop :=
  ∀ s : State,
    (∃ t, exec .hlt s = .next t ∧ t.flags = s.flags ∧ t.gpr = s.gpr ∧ s.noStore t ∧ t.sregs = s.sregs ∧ t.ip = s.ip ∧
      { s with halted := true }.restSame t) ∧
    (s.pins.testLow = true → ∃ t, exec .wait s = .next t ∧ t.flags = s.flags ∧ t.gpr = s.gpr ∧ s.noStore t ∧
      t.sregs = s.sregs ∧ t.ip = s.ip ∧ { s with waiting := false }.restSame t) ∧
    (s.pins.testLow = false → ∃ t, exec .wait s = .next t ∧ t.flags = s.flags ∧ t.gpr = s.gpr ∧ s.noStore t ∧
      t.sregs = s.sregs ∧ t.ip = s.start ∧ { s with waiting := true, afterWait := s.ip }.restSame t) ∧
    (∀ hi lo rm, ∃ t, exec (.esc hi lo rm) s = .next t ∧ s.unchanged t) ∧
    (∃ t, exec .nop s = .next t ∧ s.unchanged t)

/-- R115, R116, R400, R402: a prefix byte changes its own part of the prefix state (the last override and the last repeat
prefix win, LOCK stays) and sets the interrupt-delay bit, and nothing else; no interrupt separates it from the next byte
and the prefix state is still there after its end. -/
def Obligations.PrefixBytes : Prop :=
  ∀ (s : State) (z : Bool),
    ∀ p ∈ [(Instr.lock, { s.pfx with lock := true }), (Instr.overrideEs, { s.pfx with override := some .es }),
        (Instr.overrideCs, { s.pfx with override := some .cs }), (Instr.overrideSs, { s.pfx with override := some .ss }),
        (Instr.overrideDs, { s.pfx with override := some .ds }), (Instr.rep z, { s.pfx with rep := some z })],
      ∃ t, exec p.1 s = .next t ∧ t.pfx = p.2 ∧ t.flags = s.flags ∧ t.gpr = s.gpr ∧ s.noStore t ∧ t.sregs = s.sregs ∧
        t.ip = s.ip ∧ { s with pfx := p.2, delay := true }.restSame t ∧
        (s.entered = false → ∀ tf, boundary tf p.1 t = .next { t with delay := false })

/-- R119, R159, D5: every reserved encoding is refused by name in every state, and so is FFH F4H. -/
def Obligations.ReservedRefused : Prop :=
  ∀ s : State, (∀ i, Instr.isReserved i = true → ∃ row, exec i s = .refused (.reservedEncoding row)) ∧
    exec .refPushSp s = .refused .pushSpOperand

/-! ### Promises of the whole instruction set -/

/-- R25, R35, R36: CS is written only by intersegment jumps, calls, returns and by interrupts; TF only by POPF and IRET, and
cleared by an interrupt; IF also by STI and CLI. -/
def Obligations.SystemStateWriters : Prop :=
  ∀ (i : Instr) (s t : State), exec i s = .next t →
    (Instr.writesCs i = false → Instr.canRaise i = false → t.sregs.cs = s.sregs.cs) ∧
    (Instr.loadsFlags i = false →
      (t.flags.TF = s.flags.TF ∨ (Instr.canRaise i = true ∧ t.flags.TF = false)) ∧
      (t.flags.IF = s.flags.IF ∨ (Instr.canRaise i = true ∧ t.flags.IF = false) ∨ (i = .sti ∧ t.flags.IF = true) ∨
        (i = .cli ∧ t.flags.IF = false)))
end

