-- ==== Sys2Proof/Laws/State.lean ====
section
/-! SUPPORT. Laws/State.lean: what each named update leaves in each field of State, one lemma per field per update, true by
unfolding, for `simp`. -/

namespace Sys2Proof.Machine
open Sys2Proof

variable (s : State)

/-! ### setReg -/

@[simp] theorem setReg_gpr (r : RegCode) (v : Word) : (s.setReg r v).gpr = s.gpr.set r v := rfl
@[simp] theorem setReg_sregs (r : RegCode) (v : Word) : (s.setReg r v).sregs = s.sregs := rfl
@[simp] theorem setReg_ip (r : RegCode) (v : Word) : (s.setReg r v).ip = s.ip := rfl
@[simp] theorem setReg_flags (r : RegCode) (v : Word) : (s.setReg r v).flags = s.flags := rfl
@[simp] theorem setReg_mem (r : RegCode) (v : Word) : (s.setReg r v).mem = s.mem := rfl
@[simp] theorem setReg_stale (r : RegCode) (v : Word) : (s.setReg r v).stale = s.stale := rfl
@[simp] theorem setReg_nmiLatch (r : RegCode) (v : Word) : (s.setReg r v).nmiLatch = s.nmiLatch := rfl
@[simp] theorem setReg_delay (r : RegCode) (v : Word) : (s.setReg r v).delay = s.delay := rfl
@[simp] theorem setReg_halted (r : RegCode) (v : Word) : (s.setReg r v).halted = s.halted := rfl
@[simp] theorem setReg_waiting (r : RegCode) (v : Word) : (s.setReg r v).waiting = s.waiting := rfl
@[simp] theorem setReg_pfx (r : RegCode) (v : Word) : (s.setReg r v).pfx = s.pfx := rfl
@[simp] theorem setReg_running (r : RegCode) (v : Word) : (s.setReg r v).running = s.running := rfl
@[simp] theorem setReg_start (r : RegCode) (v : Word) : (s.setReg r v).start = s.start := rfl
@[simp] theorem setReg_afterWait (r : RegCode) (v : Word) : (s.setReg r v).afterWait = s.afterWait := rfl
@[simp] theorem setReg_entered (r : RegCode) (v : Word) : (s.setReg r v).entered = s.entered := rfl
@[simp] theorem setReg_pins (r : RegCode) (v : Word) : (s.setReg r v).pins = s.pins := rfl
@[simp] theorem setReg_inputs (r : RegCode) (v : Word) : (s.setReg r v).inputs = s.inputs := rfl
@[simp] theorem setReg_busQueue (r : RegCode) (v : Word) : (s.setReg r v).busQueue = s.busQueue := rfl
@[simp] theorem setReg_ports (r : RegCode) (v : Word) : (s.setReg r v).ports = s.ports := rfl
@[simp] theorem setReg_busLog (r : RegCode) (v : Word) : (s.setReg r v).busLog = s.busLog := rfl
@[simp] theorem setReg_plat (r : RegCode) (v : Word) : (s.setReg r v).plat = s.plat := rfl
@[simp] theorem setReg_freeIx (r : RegCode) (v : Word) : (s.setReg r v).freeIx = s.freeIx := rfl

/-! ### setRegW -/

@[simp] theorem setRegW_gpr (w : Width) (r : RegCode) (v : BitVec w.bits) :
    (s.setRegW w r v).gpr = s.gpr.setW w r v := rfl
@[simp] theorem setRegW_sregs (w : Width) (r : RegCode) (v : BitVec w.bits) : (s.setRegW w r v).sregs = s.sregs := rfl
@[simp] theorem setRegW_ip (w : Width) (r : RegCode) (v : BitVec w.bits) : (s.setRegW w r v).ip = s.ip := rfl
@[simp] theorem setRegW_flags (w : Width) (r : RegCode) (v : BitVec w.bits) : (s.setRegW w r v).flags = s.flags := rfl
@[simp] theorem setRegW_mem (w : Width) (r : RegCode) (v : BitVec w.bits) : (s.setRegW w r v).mem = s.mem := rfl
@[simp] theorem setRegW_stale (w : Width) (r : RegCode) (v : BitVec w.bits) : (s.setRegW w r v).stale = s.stale := rfl
@[simp] theorem setRegW_nmiLatch (w : Width) (r : RegCode) (v : BitVec w.bits) :
    (s.setRegW w r v).nmiLatch = s.nmiLatch := rfl
@[simp] theorem setRegW_delay (w : Width) (r : RegCode) (v : BitVec w.bits) : (s.setRegW w r v).delay = s.delay := rfl
@[simp] theorem setRegW_halted (w : Width) (r : RegCode) (v : BitVec w.bits) :
    (s.setRegW w r v).halted = s.halted := rfl
@[simp] theorem setRegW_waiting (w : Width) (r : RegCode) (v : BitVec w.bits) :
    (s.setRegW w r v).waiting = s.waiting := rfl
@[simp] theorem setRegW_pfx (w : Width) (r : RegCode) (v : BitVec w.bits) : (s.setRegW w r v).pfx = s.pfx := rfl
@[simp] theorem setRegW_running (w : Width) (r : RegCode) (v : BitVec w.bits) :
    (s.setRegW w r v).running = s.running := rfl
@[simp] theorem setRegW_start (w : Width) (r : RegCode) (v : BitVec w.bits) : (s.setRegW w r v).start = s.start := rfl
@[simp] theorem setRegW_afterWait (w : Width) (r : RegCode) (v : BitVec w.bits) :
    (s.setRegW w r v).afterWait = s.afterWait := rfl
@[simp] theorem setRegW_entered (w : Width) (r : RegCode) (v : BitVec w.bits) :
    (s.setRegW w r v).entered = s.entered := rfl
@[simp] theorem setRegW_pins (w : Width) (r : RegCode) (v : BitVec w.bits) : (s.setRegW w r v).pins = s.pins := rfl
@[simp] theorem setRegW_inputs (w : Width) (r : RegCode) (v : BitVec w.bits) :
    (s.setRegW w r v).inputs = s.inputs := rfl
@[simp] theorem setRegW_busQueue (w : Width) (r : RegCode) (v : BitVec w.bits) :
    (s.setRegW w r v).busQueue = s.busQueue := rfl
@[simp] theorem setRegW_ports (w : Width) (r : RegCode) (v : BitVec w.bits) : (s.setRegW w r v).ports = s.ports := rfl
@[simp] theorem setRegW_busLog (w : Width) (r : RegCode) (v : BitVec w.bits) :
    (s.setRegW w r v).busLog = s.busLog := rfl
@[simp] theorem setRegW_plat (w : Width) (r : RegCode) (v : BitVec w.bits) : (s.setRegW w r v).plat = s.plat := rfl
@[simp] theorem setRegW_freeIx (w : Width) (r : RegCode) (v : BitVec w.bits) :
    (s.setRegW w r v).freeIx = s.freeIx := rfl

/-! ### setSreg -/

@[simp] theorem setSreg_gpr (r : SegReg) (v : Word) : (s.setSreg r v).gpr = s.gpr := rfl
@[simp] theorem setSreg_sregs (r : SegReg) (v : Word) : (s.setSreg r v).sregs = s.sregs.set r v := rfl
@[simp] theorem setSreg_ip (r : SegReg) (v : Word) : (s.setSreg r v).ip = s.ip := rfl
@[simp] theorem setSreg_flags (r : SegReg) (v : Word) : (s.setSreg r v).flags = s.flags := rfl
@[simp] theorem setSreg_mem (r : SegReg) (v : Word) : (s.setSreg r v).mem = s.mem := rfl
@[simp] theorem setSreg_stale (r : SegReg) (v : Word) : (s.setSreg r v).stale = s.stale := rfl
@[simp] theorem setSreg_nmiLatch (r : SegReg) (v : Word) : (s.setSreg r v).nmiLatch = s.nmiLatch := rfl
@[simp] theorem setSreg_delay (r : SegReg) (v : Word) : (s.setSreg r v).delay = s.delay := rfl
@[simp] theorem setSreg_halted (r : SegReg) (v : Word) : (s.setSreg r v).halted = s.halted := rfl
@[simp] theorem setSreg_waiting (r : SegReg) (v : Word) : (s.setSreg r v).waiting = s.waiting := rfl
@[simp] theorem setSreg_pfx (r : SegReg) (v : Word) : (s.setSreg r v).pfx = s.pfx := rfl
@[simp] theorem setSreg_running (r : SegReg) (v : Word) : (s.setSreg r v).running = s.running := rfl
@[simp] theorem setSreg_start (r : SegReg) (v : Word) : (s.setSreg r v).start = s.start := rfl
@[simp] theorem setSreg_afterWait (r : SegReg) (v : Word) : (s.setSreg r v).afterWait = s.afterWait := rfl
@[simp] theorem setSreg_entered (r : SegReg) (v : Word) : (s.setSreg r v).entered = s.entered := rfl
@[simp] theorem setSreg_pins (r : SegReg) (v : Word) : (s.setSreg r v).pins = s.pins := rfl
@[simp] theorem setSreg_inputs (r : SegReg) (v : Word) : (s.setSreg r v).inputs = s.inputs := rfl
@[simp] theorem setSreg_busQueue (r : SegReg) (v : Word) : (s.setSreg r v).busQueue = s.busQueue := rfl
@[simp] theorem setSreg_ports (r : SegReg) (v : Word) : (s.setSreg r v).ports = s.ports := rfl
@[simp] theorem setSreg_busLog (r : SegReg) (v : Word) : (s.setSreg r v).busLog = s.busLog := rfl
@[simp] theorem setSreg_plat (r : SegReg) (v : Word) : (s.setSreg r v).plat = s.plat := rfl
@[simp] theorem setSreg_freeIx (r : SegReg) (v : Word) : (s.setSreg r v).freeIx = s.freeIx := rfl

/-! ### setFlags -/

@[simp] theorem setFlags_gpr (f : Flags) : (s.setFlags f).gpr = s.gpr := rfl
@[simp] theorem setFlags_sregs (f : Flags) : (s.setFlags f).sregs = s.sregs := rfl
@[simp] theorem setFlags_ip (f : Flags) : (s.setFlags f).ip = s.ip := rfl
@[simp] theorem setFlags_flags (f : Flags) : (s.setFlags f).flags = f := rfl
@[simp] theorem setFlags_mem (f : Flags) : (s.setFlags f).mem = s.mem := rfl
@[simp] theorem setFlags_stale (f : Flags) : (s.setFlags f).stale = s.stale := rfl
@[simp] theorem setFlags_nmiLatch (f : Flags) : (s.setFlags f).nmiLatch = s.nmiLatch := rfl
@[simp] theorem setFlags_delay (f : Flags) : (s.setFlags f).delay = s.delay := rfl
@[simp] theorem setFlags_halted (f : Flags) : (s.setFlags f).halted = s.halted := rfl
@[simp] theorem setFlags_waiting (f : Flags) : (s.setFlags f).waiting = s.waiting := rfl
@[simp] theorem setFlags_pfx (f : Flags) : (s.setFlags f).pfx = s.pfx := rfl
@[simp] theorem setFlags_running (f : Flags) : (s.setFlags f).running = s.running := rfl
@[simp] theorem setFlags_start (f : Flags) : (s.setFlags f).start = s.start := rfl
@[simp] theorem setFlags_afterWait (f : Flags) : (s.setFlags f).afterWait = s.afterWait := rfl
@[simp] theorem setFlags_entered (f : Flags) : (s.setFlags f).entered = s.entered := rfl
@[simp] theorem setFlags_pins (f : Flags) : (s.setFlags f).pins = s.pins := rfl
@[simp] theorem setFlags_inputs (f : Flags) : (s.setFlags f).inputs = s.inputs := rfl
@[simp] theorem setFlags_busQueue (f : Flags) : (s.setFlags f).busQueue = s.busQueue := rfl
@[simp] theorem setFlags_ports (f : Flags) : (s.setFlags f).ports = s.ports := rfl
@[simp] theorem setFlags_busLog (f : Flags) : (s.setFlags f).busLog = s.busLog := rfl
@[simp] theorem setFlags_plat (f : Flags) : (s.setFlags f).plat = s.plat := rfl
@[simp] theorem setFlags_freeIx (f : Flags) : (s.setFlags f).freeIx = s.freeIx := rfl

/-! ### tick -/

@[simp] theorem tick_gpr : s.tick.gpr = s.gpr := rfl
@[simp] theorem tick_sregs : s.tick.sregs = s.sregs := rfl
@[simp] theorem tick_ip : s.tick.ip = s.ip := rfl
@[simp] theorem tick_flags : s.tick.flags = s.flags := rfl
@[simp] theorem tick_mem : s.tick.mem = s.mem := rfl
@[simp] theorem tick_stale : s.tick.stale = s.stale := rfl
@[simp] theorem tick_nmiLatch : s.tick.nmiLatch = s.nmiLatch := rfl
@[simp] theorem tick_delay : s.tick.delay = s.delay := rfl
@[simp] theorem tick_halted : s.tick.halted = s.halted := rfl
@[simp] theorem tick_waiting : s.tick.waiting = s.waiting := rfl
@[simp] theorem tick_pfx : s.tick.pfx = s.pfx := rfl
@[simp] theorem tick_running : s.tick.running = s.running := rfl
@[simp] theorem tick_start : s.tick.start = s.start := rfl
@[simp] theorem tick_afterWait : s.tick.afterWait = s.afterWait := rfl
@[simp] theorem tick_entered : s.tick.entered = s.entered := rfl
@[simp] theorem tick_pins : s.tick.pins = s.pins := rfl
@[simp] theorem tick_inputs : s.tick.inputs = s.inputs := rfl
@[simp] theorem tick_busQueue : s.tick.busQueue = s.busQueue := rfl
@[simp] theorem tick_ports : s.tick.ports = s.ports := rfl
@[simp] theorem tick_busLog : s.tick.busLog = s.busLog := rfl
@[simp] theorem tick_plat : s.tick.plat = s.plat := rfl
@[simp] theorem tick_freeIx : s.tick.freeIx = s.freeIx + 1 := rfl

/-! ### setDelay -/

@[simp] theorem setDelay_gpr : s.setDelay.gpr = s.gpr := rfl
@[simp] theorem setDelay_sregs : s.setDelay.sregs = s.sregs := rfl
@[simp] theorem setDelay_ip : s.setDelay.ip = s.ip := rfl
@[simp] theorem setDelay_flags : s.setDelay.flags = s.flags := rfl
@[simp] theorem setDelay_mem : s.setDelay.mem = s.mem := rfl
@[simp] theorem setDelay_stale : s.setDelay.stale = s.stale := rfl
@[simp] theorem setDelay_nmiLatch : s.setDelay.nmiLatch = s.nmiLatch := rfl
@[simp] theorem setDelay_delay : s.setDelay.delay = true := rfl
@[simp] theorem setDelay_halted : s.setDelay.halted = s.halted := rfl
@[simp] theorem setDelay_waiting : s.setDelay.waiting = s.waiting := rfl
@[simp] theorem setDelay_pfx : s.setDelay.pfx = s.pfx := rfl
@[simp] theorem setDelay_running : s.setDelay.running = s.running := rfl
@[simp] theorem setDelay_start : s.setDelay.start = s.start := rfl
@[simp] theorem setDelay_afterWait : s.setDelay.afterWait = s.afterWait := rfl
@[simp] theorem setDelay_entered : s.setDelay.entered = s.entered := rfl
@[simp] theorem setDelay_pins : s.setDelay.pins = s.pins := rfl
@[simp] theorem setDelay_inputs : s.setDelay.inputs = s.inputs := rfl
@[simp] theorem setDelay_busQueue : s.setDelay.busQueue = s.busQueue := rfl
@[simp] theorem setDelay_ports : s.setDelay.ports = s.ports := rfl
@[simp] theorem setDelay_busLog : s.setDelay.busLog = s.busLog := rfl
@[simp] theorem setDelay_plat : s.setDelay.plat = s.plat := rfl
@[simp] theorem setDelay_freeIx : s.setDelay.freeIx = s.freeIx := rfl

/-! ### setSp -/

@[simp] theorem setSp_gpr (v : Word) : (s.setSp v).gpr = s.gpr.set .r100 v := rfl
@[simp] theorem setSp_sregs (v : Word) : (s.setSp v).sregs = s.sregs := rfl
@[simp] theorem setSp_ip (v : Word) : (s.setSp v).ip = s.ip := rfl
@[simp] theorem setSp_flags (v : Word) : (s.setSp v).flags = s.flags := rfl
@[simp] theorem setSp_mem (v : Word) : (s.setSp v).mem = s.mem := rfl
@[simp] theorem setSp_stale (v : Word) : (s.setSp v).stale = s.stale := rfl
@[simp] theorem setSp_nmiLatch (v : Word) : (s.setSp v).nmiLatch = s.nmiLatch := rfl
@[simp] theorem setSp_delay (v : Word) : (s.setSp v).delay = s.delay := rfl
@[simp] theorem setSp_halted (v : Word) : (s.setSp v).halted = s.halted := rfl
@[simp] theorem setSp_waiting (v : Word) : (s.setSp v).waiting = s.waiting := rfl
@[simp] theorem setSp_pfx (v : Word) : (s.setSp v).pfx = s.pfx := rfl
@[simp] theorem setSp_running (v : Word) : (s.setSp v).running = s.running := rfl
@[simp] theorem setSp_start (v : Word) : (s.setSp v).start = s.start := rfl
@[simp] theorem setSp_afterWait (v : Word) : (s.setSp v).afterWait = s.afterWait := rfl
@[simp] theorem setSp_entered (v : Word) : (s.setSp v).entered = s.entered := rfl
@[simp] theorem setSp_pins (v : Word) : (s.setSp v).pins = s.pins := rfl
@[simp] theorem setSp_inputs (v : Word) : (s.setSp v).inputs = s.inputs := rfl
@[simp] theorem setSp_busQueue (v : Word) : (s.setSp v).busQueue = s.busQueue := rfl
@[simp] theorem setSp_ports (v : Word) : (s.setSp v).ports = s.ports := rfl
@[simp] theorem setSp_busLog (v : Word) : (s.setSp v).busLog = s.busLog := rfl
@[simp] theorem setSp_plat (v : Word) : (s.setSp v).plat = s.plat := rfl
@[simp] theorem setSp_freeIx (v : Word) : (s.setSp v).freeIx = s.freeIx := rfl

/-! ### moveSp -/

@[simp] theorem moveSp_gpr (d : Word) : (s.moveSp d).gpr = s.gpr.set .r100 (s.gpr.sp + d) := rfl
@[simp] theorem moveSp_sregs (d : Word) : (s.moveSp d).sregs = s.sregs := rfl
@[simp] theorem moveSp_ip (d : Word) : (s.moveSp d).ip = s.ip := rfl
@[simp] theorem moveSp_flags (d : Word) : (s.moveSp d).flags = s.flags := rfl
@[simp] theorem moveSp_mem (d : Word) : (s.moveSp d).mem = s.mem := rfl
@[simp] theorem moveSp_stale (d : Word) : (s.moveSp d).stale = s.stale := rfl
@[simp] theorem moveSp_nmiLatch (d : Word) : (s.moveSp d).nmiLatch = s.nmiLatch := rfl
@[simp] theorem moveSp_delay (d : Word) : (s.moveSp d).delay = s.delay := rfl
@[simp] theorem moveSp_halted (d : Word) : (s.moveSp d).halted = s.halted := rfl
@[simp] theorem moveSp_waiting (d : Word) : (s.moveSp d).waiting = s.waiting := rfl
@[simp] theorem moveSp_pfx (d : Word) : (s.moveSp d).pfx = s.pfx := rfl
@[simp] theorem moveSp_running (d : Word) : (s.moveSp d).running = s.running := rfl
@[simp] theorem moveSp_start (d : Word) : (s.moveSp d).start = s.start := rfl
@[simp] theorem moveSp_afterWait (d : Word) : (s.moveSp d).afterWait = s.afterWait := rfl
@[simp] theorem moveSp_entered (d : Word) : (s.moveSp d).entered = s.entered := rfl
@[simp] theorem moveSp_pins (d : Word) : (s.moveSp d).pins = s.pins := rfl
@[simp] theorem moveSp_inputs (d : Word) : (s.moveSp d).inputs = s.inputs := rfl
@[simp] theorem moveSp_busQueue (d : Word) : (s.moveSp d).busQueue = s.busQueue := rfl
@[simp] theorem moveSp_ports (d : Word) : (s.moveSp d).ports = s.ports := rfl
@[simp] theorem moveSp_busLog (d : Word) : (s.moveSp d).busLog = s.busLog := rfl
@[simp] theorem moveSp_plat (d : Word) : (s.moveSp d).plat = s.plat := rfl
@[simp] theorem moveSp_freeIx (d : Word) : (s.moveSp d).freeIx = s.freeIx := rfl

/-! ### popped -/

@[simp] theorem popped_gpr : s.popped.gpr = s.gpr.set .r100 (s.gpr.sp + 2) := rfl
@[simp] theorem popped_sregs : s.popped.sregs = s.sregs := rfl
@[simp] theorem popped_ip : s.popped.ip = s.ip := rfl
@[simp] theorem popped_flags : s.popped.flags = s.flags := rfl
@[simp] theorem popped_mem : s.popped.mem = s.mem := rfl
@[simp] theorem popped_stale : s.popped.stale = s.stale := rfl
@[simp] theorem popped_nmiLatch : s.popped.nmiLatch = s.nmiLatch := rfl
@[simp] theorem popped_delay : s.popped.delay = s.delay := rfl
@[simp] theorem popped_halted : s.popped.halted = s.halted := rfl
@[simp] theorem popped_waiting : s.popped.waiting = s.waiting := rfl
@[simp] theorem popped_pfx : s.popped.pfx = s.pfx := rfl
@[simp] theorem popped_running : s.popped.running = s.running := rfl
@[simp] theorem popped_start : s.popped.start = s.start := rfl
@[simp] theorem popped_afterWait : s.popped.afterWait = s.afterWait := rfl
@[simp] theorem popped_entered : s.popped.entered = s.entered := rfl
@[simp] theorem popped_pins : s.popped.pins = s.pins := rfl
@[simp] theorem popped_inputs : s.popped.inputs = s.inputs := rfl
@[simp] theorem popped_busQueue : s.popped.busQueue = s.busQueue := rfl
@[simp] theorem popped_ports : s.popped.ports = s.ports := rfl
@[simp] theorem popped_busLog : s.popped.busLog = s.busLog := rfl
@[simp] theorem popped_plat : s.popped.plat = s.plat := rfl
@[simp] theorem popped_freeIx : s.popped.freeIx = s.freeIx := rfl

/-! ### jumpNear -/

@[simp] theorem jumpNear_gpr (ip : Word) : (s.jumpNear ip).gpr = s.gpr := rfl
@[simp] theorem jumpNear_sregs (ip : Word) : (s.jumpNear ip).sregs = s.sregs := rfl
@[simp] theorem jumpNear_ip (ip : Word) : (s.jumpNear ip).ip = ip := rfl
@[simp] theorem jumpNear_flags (ip : Word) : (s.jumpNear ip).flags = s.flags := rfl
@[simp] theorem jumpNear_mem (ip : Word) : (s.jumpNear ip).mem = s.mem := rfl
@[simp] theorem jumpNear_stale (ip : Word) : (s.jumpNear ip).stale = [] := rfl
@[simp] theorem jumpNear_nmiLatch (ip : Word) : (s.jumpNear ip).nmiLatch = s.nmiLatch := rfl
@[simp] theorem jumpNear_delay (ip : Word) : (s.jumpNear ip).delay = s.delay := rfl
@[simp] theorem jumpNear_halted (ip : Word) : (s.jumpNear ip).halted = s.halted := rfl
@[simp] theorem jumpNear_waiting (ip : Word) : (s.jumpNear ip).waiting = s.waiting := rfl
@[simp] theorem jumpNear_pfx (ip : Word) : (s.jumpNear ip).pfx = s.pfx := rfl
@[simp] theorem jumpNear_running (ip : Word) : (s.jumpNear ip).running = s.running := rfl
@[simp] theorem jumpNear_start (ip : Word) : (s.jumpNear ip).start = s.start := rfl
@[simp] theorem jumpNear_afterWait (ip : Word) : (s.jumpNear ip).afterWait = s.afterWait := rfl
@[simp] theorem jumpNear_entered (ip : Word) : (s.jumpNear ip).entered = s.entered := rfl
@[simp] theorem jumpNear_pins (ip : Word) : (s.jumpNear ip).pins = s.pins := rfl
@[simp] theorem jumpNear_inputs (ip : Word) : (s.jumpNear ip).inputs = s.inputs := rfl
@[simp] theorem jumpNear_busQueue (ip : Word) : (s.jumpNear ip).busQueue = s.busQueue := rfl
@[simp] theorem jumpNear_ports (ip : Word) : (s.jumpNear ip).ports = s.ports := rfl
@[simp] theorem jumpNear_busLog (ip : Word) : (s.jumpNear ip).busLog = s.busLog := rfl
@[simp] theorem jumpNear_plat (ip : Word) : (s.jumpNear ip).plat = s.plat := rfl
@[simp] theorem jumpNear_freeIx (ip : Word) : (s.jumpNear ip).freeIx = s.freeIx := rfl

/-! ### jumpFar -/

@[simp] theorem jumpFar_gpr (cs ip : Word) : (s.jumpFar cs ip).gpr = s.gpr := rfl
@[simp] theorem jumpFar_sregs (cs ip : Word) : (s.jumpFar cs ip).sregs = { s.sregs with cs := cs } := rfl
@[simp] theorem jumpFar_ip (cs ip : Word) : (s.jumpFar cs ip).ip = ip := rfl
@[simp] theorem jumpFar_flags (cs ip : Word) : (s.jumpFar cs ip).flags = s.flags := rfl
@[simp] theorem jumpFar_mem (cs ip : Word) : (s.jumpFar cs ip).mem = s.mem := rfl
@[simp] theorem jumpFar_stale (cs ip : Word) : (s.jumpFar cs ip).stale = [] := rfl
@[simp] theorem jumpFar_nmiLatch (cs ip : Word) : (s.jumpFar cs ip).nmiLatch = s.nmiLatch := rfl
@[simp] theorem jumpFar_delay (cs ip : Word) : (s.jumpFar cs ip).delay = s.delay := rfl
@[simp] theorem jumpFar_halted (cs ip : Word) : (s.jumpFar cs ip).halted = s.halted := rfl
@[simp] theorem jumpFar_waiting (cs ip : Word) : (s.jumpFar cs ip).waiting = s.waiting := rfl
@[simp] theorem jumpFar_pfx (cs ip : Word) : (s.jumpFar cs ip).pfx = s.pfx := rfl
@[simp] theorem jumpFar_running (cs ip : Word) : (s.jumpFar cs ip).running = s.running := rfl
@[simp] theorem jumpFar_start (cs ip : Word) : (s.jumpFar cs ip).start = s.start := rfl
@[simp] theorem jumpFar_afterWait (cs ip : Word) : (s.jumpFar cs ip).afterWait = s.afterWait := rfl
@[simp] theorem jumpFar_entered (cs ip : Word) : (s.jumpFar cs ip).entered = s.entered := rfl
@[simp] theorem jumpFar_pins (cs ip : Word) : (s.jumpFar cs ip).pins = s.pins := rfl
@[simp] theorem jumpFar_inputs (cs ip : Word) : (s.jumpFar cs ip).inputs = s.inputs := rfl
@[simp] theorem jumpFar_busQueue (cs ip : Word) : (s.jumpFar cs ip).busQueue = s.busQueue := rfl
@[simp] theorem jumpFar_ports (cs ip : Word) : (s.jumpFar cs ip).ports = s.ports := rfl
@[simp] theorem jumpFar_busLog (cs ip : Word) : (s.jumpFar cs ip).busLog = s.busLog := rfl
@[simp] theorem jumpFar_plat (cs ip : Word) : (s.jumpFar cs ip).plat = s.plat := rfl
@[simp] theorem jumpFar_freeIx (cs ip : Word) : (s.jumpFar cs ip).freeIx = s.freeIx := rfl

/-! ### ramWrite -/

@[simp] theorem ramWrite_gpr (a : PAddr) (b : Byte) : (s.ramWrite a b).gpr = s.gpr := rfl
@[simp] theorem ramWrite_sregs (a : PAddr) (b : Byte) : (s.ramWrite a b).sregs = s.sregs := rfl
@[simp] theorem ramWrite_ip (a : PAddr) (b : Byte) : (s.ramWrite a b).ip = s.ip := rfl
@[simp] theorem ramWrite_flags (a : PAddr) (b : Byte) : (s.ramWrite a b).flags = s.flags := rfl
@[simp] theorem ramWrite_mem (a : PAddr) (b : Byte) : (s.ramWrite a b).mem = memWrite s.mem a.toNat b := rfl
@[simp] theorem ramWrite_nmiLatch (a : PAddr) (b : Byte) : (s.ramWrite a b).nmiLatch = s.nmiLatch := rfl
@[simp] theorem ramWrite_delay (a : PAddr) (b : Byte) : (s.ramWrite a b).delay = s.delay := rfl
@[simp] theorem ramWrite_halted (a : PAddr) (b : Byte) : (s.ramWrite a b).halted = s.halted := rfl
@[simp] theorem ramWrite_waiting (a : PAddr) (b : Byte) : (s.ramWrite a b).waiting = s.waiting := rfl
@[simp] theorem ramWrite_pfx (a : PAddr) (b : Byte) : (s.ramWrite a b).pfx = s.pfx := rfl
@[simp] theorem ramWrite_running (a : PAddr) (b : Byte) : (s.ramWrite a b).running = s.running := rfl
@[simp] theorem ramWrite_start (a : PAddr) (b : Byte) : (s.ramWrite a b).start = s.start := rfl
@[simp] theorem ramWrite_afterWait (a : PAddr) (b : Byte) : (s.ramWrite a b).afterWait = s.afterWait := rfl
@[simp] theorem ramWrite_entered (a : PAddr) (b : Byte) : (s.ramWrite a b).entered = s.entered := rfl
@[simp] theorem ramWrite_pins (a : PAddr) (b : Byte) : (s.ramWrite a b).pins = s.pins := rfl
@[simp] theorem ramWrite_inputs (a : PAddr) (b : Byte) : (s.ramWrite a b).inputs = s.inputs := rfl
@[simp] theorem ramWrite_busQueue (a : PAddr) (b : Byte) : (s.ramWrite a b).busQueue = s.busQueue := rfl
@[simp] theorem ramWrite_ports (a : PAddr) (b : Byte) : (s.ramWrite a b).ports = s.ports := rfl
@[simp] theorem ramWrite_busLog (a : PAddr) (b : Byte) : (s.ramWrite a b).busLog = s.busLog := rfl
@[simp] theorem ramWrite_plat (a : PAddr) (b : Byte) : (s.ramWrite a b).plat = s.plat := rfl
@[simp] theorem ramWrite_freeIx (a : PAddr) (b : Byte) : (s.ramWrite a b).freeIx = s.freeIx := rfl

/-! ### ioWrite8 -/

@[simp] theorem ioWrite8_gpr (p : Word) (b : Byte) : (s.ioWrite8 p b).gpr = s.gpr := rfl
@[simp] theorem ioWrite8_sregs (p : Word) (b : Byte) : (s.ioWrite8 p b).sregs = s.sregs := rfl
@[simp] theorem ioWrite8_ip (p : Word) (b : Byte) : (s.ioWrite8 p b).ip = s.ip := rfl
@[simp] theorem ioWrite8_flags (p : Word) (b : Byte) : (s.ioWrite8 p b).flags = s.flags := rfl
@[simp] theorem ioWrite8_mem (p : Word) (b : Byte) : (s.ioWrite8 p b).mem = s.mem := rfl
@[simp] theorem ioWrite8_stale (p : Word) (b : Byte) : (s.ioWrite8 p b).stale = s.stale := rfl
@[simp] theorem ioWrite8_nmiLatch (p : Word) (b : Byte) : (s.ioWrite8 p b).nmiLatch = s.nmiLatch := rfl
@[simp] theorem ioWrite8_delay (p : Word) (b : Byte) : (s.ioWrite8 p b).delay = s.delay := rfl
@[simp] theorem ioWrite8_halted (p : Word) (b : Byte) : (s.ioWrite8 p b).halted = s.halted := rfl
@[simp] theorem ioWrite8_waiting (p : Word) (b : Byte) : (s.ioWrite8 p b).waiting = s.waiting := rfl
@[simp] theorem ioWrite8_pfx (p : Word) (b : Byte) : (s.ioWrite8 p b).pfx = s.pfx := rfl
@[simp] theorem ioWrite8_running (p : Word) (b : Byte) : (s.ioWrite8 p b).running = s.running := rfl
@[simp] theorem ioWrite8_start (p : Word) (b : Byte) : (s.ioWrite8 p b).start = s.start := rfl
@[simp] theorem ioWrite8_afterWait (p : Word) (b : Byte) : (s.ioWrite8 p b).afterWait = s.afterWait := rfl
@[simp] theorem ioWrite8_entered (p : Word) (b : Byte) : (s.ioWrite8 p b).entered = s.entered := rfl
@[simp] theorem ioWrite8_pins (p : Word) (b : Byte) : (s.ioWrite8 p b).pins = s.pins := rfl
@[simp] theorem ioWrite8_inputs (p : Word) (b : Byte) : (s.ioWrite8 p b).inputs = s.inputs := rfl
@[simp] theorem ioWrite8_busQueue (p : Word) (b : Byte) : (s.ioWrite8 p b).busQueue = s.busQueue := rfl
@[simp] theorem ioWrite8_ports (p : Word) (b : Byte) : (s.ioWrite8 p b).ports = s.ports := rfl
@[simp] theorem ioWrite8_busLog (p : Word) (b : Byte) : (s.ioWrite8 p b).busLog = s.busLog ++ [.io p b] := rfl
@[simp] theorem ioWrite8_plat (p : Word) (b : Byte) : (s.ioWrite8 p b).plat = s.plat := rfl
@[simp] theorem ioWrite8_freeIx (p : Word) (b : Byte) : (s.ioWrite8 p b).freeIx = s.freeIx := rfl

/-! ### leaveIdle -/

@[simp] theorem leaveIdle_gpr : s.leaveIdle.gpr = s.gpr := rfl
@[simp] theorem leaveIdle_sregs : s.leaveIdle.sregs = s.sregs := rfl
@[simp] theorem leaveIdle_ip : s.leaveIdle.ip = s.ip := rfl
@[simp] theorem leaveIdle_flags : s.leaveIdle.flags = s.flags := rfl
@[simp] theorem leaveIdle_mem : s.leaveIdle.mem = s.mem := rfl
@[simp] theorem leaveIdle_stale : s.leaveIdle.stale = s.stale := rfl
@[simp] theorem leaveIdle_nmiLatch : s.leaveIdle.nmiLatch = s.nmiLatch := rfl
@[simp] theorem leaveIdle_delay : s.leaveIdle.delay = s.delay := rfl
@[simp] theorem leaveIdle_halted : s.leaveIdle.halted = false := rfl
@[simp] theorem leaveIdle_waiting : s.leaveIdle.waiting = false := rfl
@[simp] theorem leaveIdle_pfx : s.leaveIdle.pfx = Prefixes.none := rfl
@[simp] theorem leaveIdle_running : s.leaveIdle.running = none := rfl
@[simp] theorem leaveIdle_start : s.leaveIdle.start = s.start := rfl
@[simp] theorem leaveIdle_afterWait : s.leaveIdle.afterWait = s.afterWait := rfl
@[simp] theorem leaveIdle_entered : s.leaveIdle.entered = s.entered := rfl
@[simp] theorem leaveIdle_pins : s.leaveIdle.pins = s.pins := rfl
@[simp] theorem leaveIdle_inputs : s.leaveIdle.inputs = s.inputs := rfl
@[simp] theorem leaveIdle_busQueue : s.leaveIdle.busQueue = s.busQueue := rfl
@[simp] theorem leaveIdle_ports : s.leaveIdle.ports = s.ports := rfl
@[simp] theorem leaveIdle_busLog : s.leaveIdle.busLog = s.busLog := rfl
@[simp] theorem leaveIdle_plat : s.leaveIdle.plat = s.plat := rfl
@[simp] theorem leaveIdle_freeIx : s.leaveIdle.freeIx = s.freeIx := rfl

/-! ### clearNmi -/

@[simp] theorem clearNmi_gpr : s.clearNmi.gpr = s.gpr := rfl
@[simp] theorem clearNmi_sregs : s.clearNmi.sregs = s.sregs := rfl
@[simp] theorem clearNmi_ip : s.clearNmi.ip = s.ip := rfl
@[simp] theorem clearNmi_flags : s.clearNmi.flags = s.flags := rfl
@[simp] theorem clearNmi_mem : s.clearNmi.mem = s.mem := rfl
@[simp] theorem clearNmi_stale : s.clearNmi.stale = s.stale := rfl
@[simp] theorem clearNmi_nmiLatch : s.clearNmi.nmiLatch = false := rfl
@[simp] theorem clearNmi_delay : s.clearNmi.delay = s.delay := rfl
@[simp] theorem clearNmi_halted : s.clearNmi.halted = s.halted := rfl
@[simp] theorem clearNmi_waiting : s.clearNmi.waiting = s.waiting := rfl
@[simp] theorem clearNmi_pfx : s.clearNmi.pfx = s.pfx := rfl
@[simp] theorem clearNmi_running : s.clearNmi.running = s.running := rfl
@[simp] theorem clearNmi_start : s.clearNmi.start = s.start := rfl
@[simp] theorem clearNmi_afterWait : s.clearNmi.afterWait = s.afterWait := rfl
@[simp] theorem clearNmi_entered : s.clearNmi.entered = s.entered := rfl
@[simp] theorem clearNmi_pins : s.clearNmi.pins = s.pins := rfl
@[simp] theorem clearNmi_inputs : s.clearNmi.inputs = s.inputs := rfl
@[simp] theorem clearNmi_busQueue : s.clearNmi.busQueue = s.busQueue := rfl
@[simp] theorem clearNmi_ports : s.clearNmi.ports = s.ports := rfl
@[simp] theorem clearNmi_busLog : s.clearNmi.busLog = s.busLog := rfl
@[simp] theorem clearNmi_plat : s.clearNmi.plat = s.plat := rfl
@[simp] theorem clearNmi_freeIx : s.clearNmi.freeIx = s.freeIx := rfl

/-! ### endLock -/

@[simp] theorem endLock_gpr : s.endLock.gpr = s.gpr := rfl
@[simp] theorem endLock_sregs : s.endLock.sregs = s.sregs := rfl
@[simp] theorem endLock_ip : s.endLock.ip = s.ip := rfl
@[simp] theorem endLock_flags : s.endLock.flags = s.flags := rfl
@[simp] theorem endLock_mem : s.endLock.mem = s.mem := rfl
@[simp] theorem endLock_stale : s.endLock.stale = s.stale := rfl
@[simp] theorem endLock_nmiLatch : s.endLock.nmiLatch = s.nmiLatch := rfl
@[simp] theorem endLock_delay : s.endLock.delay = s.delay := rfl
@[simp] theorem endLock_halted : s.endLock.halted = s.halted := rfl
@[simp] theorem endLock_waiting : s.endLock.waiting = s.waiting := rfl
@[simp] theorem endLock_pfx : s.endLock.pfx = { s.pfx with lock := false } := rfl
@[simp] theorem endLock_running : s.endLock.running = s.running := rfl
@[simp] theorem endLock_start : s.endLock.start = s.start := rfl
@[simp] theorem endLock_afterWait : s.endLock.afterWait = s.afterWait := rfl
@[simp] theorem endLock_entered : s.endLock.entered = s.entered := rfl
@[simp] theorem endLock_pins : s.endLock.pins = s.pins := rfl
@[simp] theorem endLock_inputs : s.endLock.inputs = s.inputs := rfl
@[simp] theorem endLock_busQueue : s.endLock.busQueue = s.busQueue := rfl
@[simp] theorem endLock_ports : s.endLock.ports = s.ports := rfl
@[simp] theorem endLock_busLog : s.endLock.busLog = s.busLog := rfl
@[simp] theorem endLock_plat : s.endLock.plat = s.plat := rfl
@[simp] theorem endLock_freeIx : s.endLock.freeIx = s.freeIx := rfl

/-! ### noteStart -/

@[simp] theorem noteStart_gpr : s.noteStart.gpr = s.gpr := rfl
@[simp] theorem noteStart_sregs : s.noteStart.sregs = s.sregs := rfl
@[simp] theorem noteStart_ip : s.noteStart.ip = s.ip := rfl
@[simp] theorem noteStart_flags : s.noteStart.flags = s.flags := rfl
@[simp] theorem noteStart_mem : s.noteStart.mem = s.mem := rfl
@[simp] theorem noteStart_stale : s.noteStart.stale = s.stale := rfl
@[simp] theorem noteStart_nmiLatch : s.noteStart.nmiLatch = s.nmiLatch := rfl
@[simp] theorem noteStart_delay : s.noteStart.delay = s.delay := rfl
@[simp] theorem noteStart_halted : s.noteStart.halted = s.halted := rfl
@[simp] theorem noteStart_waiting : s.noteStart.waiting = s.waiting := rfl
@[simp] theorem noteStart_pfx : s.noteStart.pfx = s.pfx := rfl
@[simp] theorem noteStart_running : s.noteStart.running = s.running := rfl
@[simp] theorem noteStart_start : s.noteStart.start = if s.pfx = Prefixes.none then s.ip else s.start := rfl
@[simp] theorem noteStart_afterWait : s.noteStart.afterWait = s.afterWait := rfl
@[simp] theorem noteStart_entered : s.noteStart.entered = s.entered := rfl
@[simp] theorem noteStart_pins : s.noteStart.pins = s.pins := rfl
@[simp] theorem noteStart_inputs : s.noteStart.inputs = s.inputs := rfl
@[simp] theorem noteStart_busQueue : s.noteStart.busQueue = s.busQueue := rfl
@[simp] theorem noteStart_ports : s.noteStart.ports = s.ports := rfl
@[simp] theorem noteStart_busLog : s.noteStart.busLog = s.busLog := rfl
@[simp] theorem noteStart_plat : s.noteStart.plat = s.plat := rfl
@[simp] theorem noteStart_freeIx : s.noteStart.freeIx = s.freeIx := rfl

/-! ### takeByte -/

@[simp] theorem takeByte_gpr : s.takeByte.gpr = s.gpr := rfl
@[simp] theorem takeByte_sregs : s.takeByte.sregs = s.sregs := rfl
@[simp] theorem takeByte_ip : s.takeByte.ip = s.ip + 1 := rfl
@[simp] theorem takeByte_flags : s.takeByte.flags = s.flags := rfl
@[simp] theorem takeByte_mem : s.takeByte.mem = s.mem := rfl
@[simp] theorem takeByte_stale : s.takeByte.stale = s.stale.filter fun c => c.1 != phys s.sregs.cs s.ip := rfl
@[simp] theorem takeByte_nmiLatch : s.takeByte.nmiLatch = s.nmiLatch := rfl
@[simp] theorem takeByte_delay : s.takeByte.delay = s.delay := rfl
@[simp] theorem takeByte_halted : s.takeByte.halted = s.halted := rfl
@[simp] theorem takeByte_waiting : s.takeByte.waiting = s.waiting := rfl
@[simp] theorem takeByte_pfx : s.takeByte.pfx = s.pfx := rfl
@[simp] theorem takeByte_running : s.takeByte.running = s.running := rfl
@[simp] theorem takeByte_start : s.takeByte.start = s.start := rfl
@[simp] theorem takeByte_afterWait : s.takeByte.afterWait = s.afterWait := rfl
@[simp] theorem takeByte_entered : s.takeByte.entered = s.entered := rfl
@[simp] theorem takeByte_pins : s.takeByte.pins = s.pins := rfl
@[simp] theorem takeByte_inputs : s.takeByte.inputs = s.inputs := rfl
@[simp] theorem takeByte_busQueue : s.takeByte.busQueue = s.busQueue := rfl
@[simp] theorem takeByte_ports : s.takeByte.ports = s.ports := rfl
@[simp] theorem takeByte_busLog : s.takeByte.busLog = s.busLog := rfl
@[simp] theorem takeByte_plat : s.takeByte.plat = s.plat := rfl
@[simp] theorem takeByte_freeIx : s.takeByte.freeIx = s.freeIx := rfl

/-! ### countCx -/

@[simp] theorem countCx_gpr : s.countCx.gpr = s.gpr.set .r001 (s.gpr.cx - 1) := rfl
@[simp] theorem countCx_sregs : s.countCx.sregs = s.sregs := rfl
@[simp] theorem countCx_ip : s.countCx.ip = s.ip := rfl
@[simp] theorem countCx_flags : s.countCx.flags = s.flags := rfl
@[simp] theorem countCx_mem : s.countCx.mem = s.mem := rfl
@[simp] theorem countCx_stale : s.countCx.stale = s.stale := rfl
@[simp] theorem countCx_nmiLatch : s.countCx.nmiLatch = s.nmiLatch := rfl
@[simp] theorem countCx_delay : s.countCx.delay = s.delay := rfl
@[simp] theorem countCx_halted : s.countCx.halted = s.halted := rfl
@[simp] theorem countCx_waiting : s.countCx.waiting = s.waiting := rfl
@[simp] theorem countCx_pfx : s.countCx.pfx = s.pfx := rfl
@[simp] theorem countCx_running : s.countCx.running = s.running := rfl
@[simp] theorem countCx_start : s.countCx.start = s.start := rfl
@[simp] theorem countCx_afterWait : s.countCx.afterWait = s.afterWait := rfl
@[simp] theorem countCx_entered : s.countCx.entered = s.entered := rfl
@[simp] theorem countCx_pins : s.countCx.pins = s.pins := rfl
@[simp] theorem countCx_inputs : s.countCx.inputs = s.inputs := rfl
@[simp] theorem countCx_busQueue : s.countCx.busQueue = s.busQueue := rfl
@[simp] theorem countCx_ports : s.countCx.ports = s.ports := rfl
@[simp] theorem countCx_busLog : s.countCx.busLog = s.busLog := rfl
@[simp] theorem countCx_plat : s.countCx.plat = s.plat := rfl
@[simp] theorem countCx_freeIx : s.countCx.freeIx = s.freeIx := rfl

/-! ### setAhAl -/

@[simp] theorem setAhAl_gpr (ah al : Byte) : (s.setAhAl ah al).gpr = s.gpr.set .r000 (wordOf ah al) := rfl
@[simp] theorem setAhAl_sregs (ah al : Byte) : (s.setAhAl ah al).sregs = s.sregs := rfl
@[simp] theorem setAhAl_ip (ah al : Byte) : (s.setAhAl ah al).ip = s.ip := rfl
@[simp] theorem setAhAl_flags (ah al : Byte) : (s.setAhAl ah al).flags = s.flags := rfl
@[simp] theorem setAhAl_mem (ah al : Byte) : (s.setAhAl ah al).mem = s.mem := rfl
@[simp] theorem setAhAl_stale (ah al : Byte) : (s.setAhAl ah al).stale = s.stale := rfl
@[simp] theorem setAhAl_nmiLatch (ah al : Byte) : (s.setAhAl ah al).nmiLatch = s.nmiLatch := rfl
@[simp] theorem setAhAl_delay (ah al : Byte) : (s.setAhAl ah al).delay = s.delay := rfl
@[simp] theorem setAhAl_halted (ah al : Byte) : (s.setAhAl ah al).halted = s.halted := rfl
@[simp] theorem setAhAl_waiting (ah al : Byte) : (s.setAhAl ah al).waiting = s.waiting := rfl
@[simp] theorem setAhAl_pfx (ah al : Byte) : (s.setAhAl ah al).pfx = s.pfx := rfl
@[simp] theorem setAhAl_running (ah al : Byte) : (s.setAhAl ah al).running = s.running := rfl
@[simp] theorem setAhAl_start (ah al : Byte) : (s.setAhAl ah al).start = s.start := rfl
@[simp] theorem setAhAl_afterWait (ah al : Byte) : (s.setAhAl ah al).afterWait = s.afterWait := rfl
@[simp] theorem setAhAl_entered (ah al : Byte) : (s.setAhAl ah al).entered = s.entered := rfl
@[simp] theorem setAhAl_pins (ah al : Byte) : (s.setAhAl ah al).pins = s.pins := rfl
@[simp] theorem setAhAl_inputs (ah al : Byte) : (s.setAhAl ah al).inputs = s.inputs := rfl
@[simp] theorem setAhAl_busQueue (ah al : Byte) : (s.setAhAl ah al).busQueue = s.busQueue := rfl
@[simp] theorem setAhAl_ports (ah al : Byte) : (s.setAhAl ah al).ports = s.ports := rfl
@[simp] theorem setAhAl_busLog (ah al : Byte) : (s.setAhAl ah al).busLog = s.busLog := rfl
@[simp] theorem setAhAl_plat (ah al : Byte) : (s.setAhAl ah al).plat = s.plat := rfl
@[simp] theorem setAhAl_freeIx (ah al : Byte) : (s.setAhAl ah al).freeIx = s.freeIx := rfl

/-! ### setDxAx -/

@[simp] theorem setDxAx_gpr (v : BitVec 32) :
    (s.setDxAx v).gpr = (s.gpr.set .r010 (v.extractLsb' 16 16)).set .r000 (v.extractLsb' 0 16) := rfl
@[simp] theorem setDxAx_sregs (v : BitVec 32) : (s.setDxAx v).sregs = s.sregs := rfl
@[simp] theorem setDxAx_ip (v : BitVec 32) : (s.setDxAx v).ip = s.ip := rfl
@[simp] theorem setDxAx_flags (v : BitVec 32) : (s.setDxAx v).flags = s.flags := rfl
@[simp] theorem setDxAx_mem (v : BitVec 32) : (s.setDxAx v).mem = s.mem := rfl
@[simp] theorem setDxAx_stale (v : BitVec 32) : (s.setDxAx v).stale = s.stale := rfl
@[simp] theorem setDxAx_nmiLatch (v : BitVec 32) : (s.setDxAx v).nmiLatch = s.nmiLatch := rfl
@[simp] theorem setDxAx_delay (v : BitVec 32) : (s.setDxAx v).delay = s.delay := rfl
@[simp] theorem setDxAx_halted (v : BitVec 32) : (s.setDxAx v).halted = s.halted := rfl
@[simp] theorem setDxAx_waiting (v : BitVec 32) : (s.setDxAx v).waiting = s.waiting := rfl
@[simp] theorem setDxAx_pfx (v : BitVec 32) : (s.setDxAx v).pfx = s.pfx := rfl
@[simp] theorem setDxAx_running (v : BitVec 32) : (s.setDxAx v).running = s.running := rfl
@[simp] theorem setDxAx_start (v : BitVec 32) : (s.setDxAx v).start = s.start := rfl
@[simp] theorem setDxAx_afterWait (v : BitVec 32) : (s.setDxAx v).afterWait = s.afterWait := rfl
@[simp] theorem setDxAx_entered (v : BitVec 32) : (s.setDxAx v).entered = s.entered := rfl
@[simp] theorem setDxAx_pins (v : BitVec 32) : (s.setDxAx v).pins = s.pins := rfl
@[simp] theorem setDxAx_inputs (v : BitVec 32) : (s.setDxAx v).inputs = s.inputs := rfl
@[simp] theorem setDxAx_busQueue (v : BitVec 32) : (s.setDxAx v).busQueue = s.busQueue := rfl
@[simp] theorem setDxAx_ports (v : BitVec 32) : (s.setDxAx v).ports = s.ports := rfl
@[simp] theorem setDxAx_busLog (v : BitVec 32) : (s.setDxAx v).busLog = s.busLog := rfl
@[simp] theorem setDxAx_plat (v : BitVec 32) : (s.setDxAx v).plat = s.plat := rfl
@[simp] theorem setDxAx_freeIx (v : BitVec 32) : (s.setDxAx v).freeIx = s.freeIx := rfl

/-! ### stepSi -/

@[simp] theorem stepSi_gpr (w : Width) : (s.stepSi w).gpr = s.gpr.set .r110 (s.indexStep w s.gpr.si) := rfl
@[simp] theorem stepSi_sregs (w : Width) : (s.stepSi w).sregs = s.sregs := rfl
@[simp] theorem stepSi_ip (w : Width) : (s.stepSi w).ip = s.ip := rfl
@[simp] theorem stepSi_flags (w : Width) : (s.stepSi w).flags = s.flags := rfl
@[simp] theorem stepSi_mem (w : Width) : (s.stepSi w).mem = s.mem := rfl
@[simp] theorem stepSi_stale (w : Width) : (s.stepSi w).stale = s.stale := rfl
@[simp] theorem stepSi_nmiLatch (w : Width) : (s.stepSi w).nmiLatch = s.nmiLatch := rfl
@[simp] theorem stepSi_delay (w : Width) : (s.stepSi w).delay = s.delay := rfl
@[simp] theorem stepSi_halted (w : Width) : (s.stepSi w).halted = s.halted := rfl
@[simp] theorem stepSi_waiting (w : Width) : (s.stepSi w).waiting = s.waiting := rfl
@[simp] theorem stepSi_pfx (w : Width) : (s.stepSi w).pfx = s.pfx := rfl
@[simp] theorem stepSi_running (w : Width) : (s.stepSi w).running = s.running := rfl
@[simp] theorem stepSi_start (w : Width) : (s.stepSi w).start = s.start := rfl
@[simp] theorem stepSi_afterWait (w : Width) : (s.stepSi w).afterWait = s.afterWait := rfl
@[simp] theorem stepSi_entered (w : Width) : (s.stepSi w).entered = s.entered := rfl
@[simp] theorem stepSi_pins (w : Width) : (s.stepSi w).pins = s.pins := rfl
@[simp] theorem stepSi_inputs (w : Width) : (s.stepSi w).inputs = s.inputs := rfl
@[simp] theorem stepSi_busQueue (w : Width) : (s.stepSi w).busQueue = s.busQueue := rfl
@[simp] theorem stepSi_ports (w : Width) : (s.stepSi w).ports = s.ports := rfl
@[simp] theorem stepSi_busLog (w : Width) : (s.stepSi w).busLog = s.busLog := rfl
@[simp] theorem stepSi_plat (w : Width) : (s.stepSi w).plat = s.plat := rfl
@[simp] theorem stepSi_freeIx (w : Width) : (s.stepSi w).freeIx = s.freeIx := rfl

/-! ### stepDi -/

@[simp] theorem stepDi_gpr (w : Width) : (s.stepDi w).gpr = s.gpr.set .r111 (s.indexStep w s.gpr.di) := rfl
@[simp] theorem stepDi_sregs (w : Width) : (s.stepDi w).sregs = s.sregs := rfl
@[simp] theorem stepDi_ip (w : Width) : (s.stepDi w).ip = s.ip := rfl
@[simp] theorem stepDi_flags (w : Width) : (s.stepDi w).flags = s.flags := rfl
@[simp] theorem stepDi_mem (w : Width) : (s.stepDi w).mem = s.mem := rfl
@[simp] theorem stepDi_stale (w : Width) : (s.stepDi w).stale = s.stale := rfl
@[simp] theorem stepDi_nmiLatch (w : Width) : (s.stepDi w).nmiLatch = s.nmiLatch := rfl
@[simp] theorem stepDi_delay (w : Width) : (s.stepDi w).delay = s.delay := rfl
@[simp] theorem stepDi_halted (w : Width) : (s.stepDi w).halted = s.halted := rfl
@[simp] theorem stepDi_waiting (w : Width) : (s.stepDi w).waiting = s.waiting := rfl
@[simp] theorem stepDi_pfx (w : Width) : (s.stepDi w).pfx = s.pfx := rfl
@[simp] theorem stepDi_running (w : Width) : (s.stepDi w).running = s.running := rfl
@[simp] theorem stepDi_start (w : Width) : (s.stepDi w).start = s.start := rfl
@[simp] theorem stepDi_afterWait (w : Width) : (s.stepDi w).afterWait = s.afterWait := rfl
@[simp] theorem stepDi_entered (w : Width) : (s.stepDi w).entered = s.entered := rfl
@[simp] theorem stepDi_pins (w : Width) : (s.stepDi w).pins = s.pins := rfl
@[simp] theorem stepDi_inputs (w : Width) : (s.stepDi w).inputs = s.inputs := rfl
@[simp] theorem stepDi_busQueue (w : Width) : (s.stepDi w).busQueue = s.busQueue := rfl
@[simp] theorem stepDi_ports (w : Width) : (s.stepDi w).ports = s.ports := rfl
@[simp] theorem stepDi_busLog (w : Width) : (s.stepDi w).busLog = s.busLog := rfl
@[simp] theorem stepDi_plat (w : Width) : (s.stepDi w).plat = s.plat := rfl
@[simp] theorem stepDi_freeIx (w : Width) : (s.stepDi w).freeIx = s.freeIx := rfl

/-! ### freeArithFlags -/

@[simp] theorem freeArithFlags_gpr : s.freeArithFlags.gpr = s.gpr := rfl
@[simp] theorem freeArithFlags_sregs : s.freeArithFlags.sregs = s.sregs := rfl
@[simp] theorem freeArithFlags_ip : s.freeArithFlags.ip = s.ip := rfl
@[simp] theorem freeArithFlags_flags :
    s.freeArithFlags.flags = { s.flags with CF := s.freeFlag 0, PF := s.freeFlag 2, AF := s.freeFlag 4, ZF := s.freeFlag 6, SF := s.freeFlag 7, OF := s.freeFlag 11 } := rfl
@[simp] theorem freeArithFlags_mem : s.freeArithFlags.mem = s.mem := rfl
@[simp] theorem freeArithFlags_stale : s.freeArithFlags.stale = s.stale := rfl
@[simp] theorem freeArithFlags_nmiLatch : s.freeArithFlags.nmiLatch = s.nmiLatch := rfl
@[simp] theorem freeArithFlags_delay : s.freeArithFlags.delay = s.delay := rfl
@[simp] theorem freeArithFlags_halted : s.freeArithFlags.halted = s.halted := rfl
@[simp] theorem freeArithFlags_waiting : s.freeArithFlags.waiting = s.waiting := rfl
@[simp] theorem freeArithFlags_pfx : s.freeArithFlags.pfx = s.pfx := rfl
@[simp] theorem freeArithFlags_running : s.freeArithFlags.running = s.running := rfl
@[simp] theorem freeArithFlags_start : s.freeArithFlags.start = s.start := rfl
@[simp] theorem freeArithFlags_afterWait : s.freeArithFlags.afterWait = s.afterWait := rfl
@[simp] theorem freeArithFlags_entered : s.freeArithFlags.entered = s.entered := rfl
@[simp] theorem freeArithFlags_pins : s.freeArithFlags.pins = s.pins := rfl
@[simp] theorem freeArithFlags_inputs : s.freeArithFlags.inputs = s.inputs := rfl
@[simp] theorem freeArithFlags_busQueue : s.freeArithFlags.busQueue = s.busQueue := rfl
@[simp] theorem freeArithFlags_ports : s.freeArithFlags.ports = s.ports := rfl
@[simp] theorem freeArithFlags_busLog : s.freeArithFlags.busLog = s.busLog := rfl
@[simp] theorem freeArithFlags_plat : s.freeArithFlags.plat = s.plat := rfl
@[simp] theorem freeArithFlags_freeIx : s.freeArithFlags.freeIx = s.freeIx + 1 := rfl

/-! ### asciiFlags -/

@[simp] theorem asciiFlags_gpr (b : Bool) : (s.asciiFlags b).gpr = s.gpr := rfl
@[simp] theorem asciiFlags_sregs (b : Bool) : (s.asciiFlags b).sregs = s.sregs := rfl
@[simp] theorem asciiFlags_ip (b : Bool) : (s.asciiFlags b).ip = s.ip := rfl
@[simp] theorem asciiFlags_flags (b : Bool) :
    (s.asciiFlags b).flags = { s.flags with AF := b, CF := b, OF := s.freeFlag 11, SF := s.freeFlag 7, ZF := s.freeFlag 6, PF := s.freeFlag 2 } := rfl
@[simp] theorem asciiFlags_mem (b : Bool) : (s.asciiFlags b).mem = s.mem := rfl
@[simp] theorem asciiFlags_stale (b : Bool) : (s.asciiFlags b).stale = s.stale := rfl
@[simp] theorem asciiFlags_nmiLatch (b : Bool) : (s.asciiFlags b).nmiLatch = s.nmiLatch := rfl
@[simp] theorem asciiFlags_delay (b : Bool) : (s.asciiFlags b).delay = s.delay := rfl
@[simp] theorem asciiFlags_halted (b : Bool) : (s.asciiFlags b).halted = s.halted := rfl
@[simp] theorem asciiFlags_waiting (b : Bool) : (s.asciiFlags b).waiting = s.waiting := rfl
@[simp] theorem asciiFlags_pfx (b : Bool) : (s.asciiFlags b).pfx = s.pfx := rfl
@[simp] theorem asciiFlags_running (b : Bool) : (s.asciiFlags b).running = s.running := rfl
@[simp] theorem asciiFlags_start (b : Bool) : (s.asciiFlags b).start = s.start := rfl
@[simp] theorem asciiFlags_afterWait (b : Bool) : (s.asciiFlags b).afterWait = s.afterWait := rfl
@[simp] theorem asciiFlags_entered (b : Bool) : (s.asciiFlags b).entered = s.entered := rfl
@[simp] theorem asciiFlags_pins (b : Bool) : (s.asciiFlags b).pins = s.pins := rfl
@[simp] theorem asciiFlags_inputs (b : Bool) : (s.asciiFlags b).inputs = s.inputs := rfl
@[simp] theorem asciiFlags_busQueue (b : Bool) : (s.asciiFlags b).busQueue = s.busQueue := rfl
@[simp] theorem asciiFlags_ports (b : Bool) : (s.asciiFlags b).ports = s.ports := rfl
@[simp] theorem asciiFlags_busLog (b : Bool) : (s.asciiFlags b).busLog = s.busLog := rfl
@[simp] theorem asciiFlags_plat (b : Bool) : (s.asciiFlags b).plat = s.plat := rfl
@[simp] theorem asciiFlags_freeIx (b : Bool) : (s.asciiFlags b).freeIx = s.freeIx + 1 := rfl

/-! ### szpFlags -/

@[simp] theorem szpFlags_gpr (al : Byte) : (s.szpFlags al).gpr = s.gpr := rfl
@[simp] theorem szpFlags_sregs (al : Byte) : (s.szpFlags al).sregs = s.sregs := rfl
@[simp] theorem szpFlags_ip (al : Byte) : (s.szpFlags al).ip = s.ip := rfl
@[simp] theorem szpFlags_flags (al : Byte) :
    (s.szpFlags al).flags = { (s.flags.setSzp al) with OF := s.freeFlag 11, AF := s.freeFlag 4, CF := s.freeFlag 0 } := rfl
@[simp] theorem szpFlags_mem (al : Byte) : (s.szpFlags al).mem = s.mem := rfl
@[simp] theorem szpFlags_stale (al : Byte) : (s.szpFlags al).stale = s.stale := rfl
@[simp] theorem szpFlags_nmiLatch (al : Byte) : (s.szpFlags al).nmiLatch = s.nmiLatch := rfl
@[simp] theorem szpFlags_delay (al : Byte) : (s.szpFlags al).delay = s.delay := rfl
@[simp] theorem szpFlags_halted (al : Byte) : (s.szpFlags al).halted = s.halted := rfl
@[simp] theorem szpFlags_waiting (al : Byte) : (s.szpFlags al).waiting = s.waiting := rfl
@[simp] theorem szpFlags_pfx (al : Byte) : (s.szpFlags al).pfx = s.pfx := rfl
@[simp] theorem szpFlags_running (al : Byte) : (s.szpFlags al).running = s.running := rfl
@[simp] theorem szpFlags_start (al : Byte) : (s.szpFlags al).start = s.start := rfl
@[simp] theorem szpFlags_afterWait (al : Byte) : (s.szpFlags al).afterWait = s.afterWait := rfl
@[simp] theorem szpFlags_entered (al : Byte) : (s.szpFlags al).entered = s.entered := rfl
@[simp] theorem szpFlags_pins (al : Byte) : (s.szpFlags al).pins = s.pins := rfl
@[simp] theorem szpFlags_inputs (al : Byte) : (s.szpFlags al).inputs = s.inputs := rfl
@[simp] theorem szpFlags_busQueue (al : Byte) : (s.szpFlags al).busQueue = s.busQueue := rfl
@[simp] theorem szpFlags_ports (al : Byte) : (s.szpFlags al).ports = s.ports := rfl
@[simp] theorem szpFlags_busLog (al : Byte) : (s.szpFlags al).busLog = s.busLog := rfl
@[simp] theorem szpFlags_plat (al : Byte) : (s.szpFlags al).plat = s.plat := rfl
@[simp] theorem szpFlags_freeIx (al : Byte) : (s.szpFlags al).freeIx = s.freeIx + 1 := rfl

/-! ### mulFlags -/

@[simp] theorem mulFlags_gpr (b : Bool) : (s.mulFlags b).gpr = s.gpr := rfl
@[simp] theorem mulFlags_sregs (b : Bool) : (s.mulFlags b).sregs = s.sregs := rfl
@[simp] theorem mulFlags_ip (b : Bool) : (s.mulFlags b).ip = s.ip := rfl
@[simp] theorem mulFlags_flags (b : Bool) :
    (s.mulFlags b).flags = { s.flags with CF := b, OF := b, SF := s.freeFlag 7, ZF := s.freeFlag 6, AF := s.freeFlag 4, PF := s.freeFlag 2 } := rfl
@[simp] theorem mulFlags_mem (b : Bool) : (s.mulFlags b).mem = s.mem := rfl
@[simp] theorem mulFlags_stale (b : Bool) : (s.mulFlags b).stale = s.stale := rfl
@[simp] theorem mulFlags_nmiLatch (b : Bool) : (s.mulFlags b).nmiLatch = s.nmiLatch := rfl
@[simp] theorem mulFlags_delay (b : Bool) : (s.mulFlags b).delay = s.delay := rfl
@[simp] theorem mulFlags_halted (b : Bool) : (s.mulFlags b).halted = s.halted := rfl
@[simp] theorem mulFlags_waiting (b : Bool) : (s.mulFlags b).waiting = s.waiting := rfl
@[simp] theorem mulFlags_pfx (b : Bool) : (s.mulFlags b).pfx = s.pfx := rfl
@[simp] theorem mulFlags_running (b : Bool) : (s.mulFlags b).running = s.running := rfl
@[simp] theorem mulFlags_start (b : Bool) : (s.mulFlags b).start = s.start := rfl
@[simp] theorem mulFlags_afterWait (b : Bool) : (s.mulFlags b).afterWait = s.afterWait := rfl
@[simp] theorem mulFlags_entered (b : Bool) : (s.mulFlags b).entered = s.entered := rfl
@[simp] theorem mulFlags_pins (b : Bool) : (s.mulFlags b).pins = s.pins := rfl
@[simp] theorem mulFlags_inputs (b : Bool) : (s.mulFlags b).inputs = s.inputs := rfl
@[simp] theorem mulFlags_busQueue (b : Bool) : (s.mulFlags b).busQueue = s.busQueue := rfl
@[simp] theorem mulFlags_ports (b : Bool) : (s.mulFlags b).ports = s.ports := rfl
@[simp] theorem mulFlags_busLog (b : Bool) : (s.mulFlags b).busLog = s.busLog := rfl
@[simp] theorem mulFlags_plat (b : Bool) : (s.mulFlags b).plat = s.plat := rfl
@[simp] theorem mulFlags_freeIx (b : Bool) : (s.mulFlags b).freeIx = s.freeIx + 1 := rfl

/-! ### discard -/

@[simp] theorem discard_gpr (v : Word) : (s.discard v).gpr = s.gpr := rfl
@[simp] theorem discard_sregs (v : Word) : (s.discard v).sregs = s.sregs := rfl
@[simp] theorem discard_ip (v : Word) : (s.discard v).ip = s.ip := rfl
@[simp] theorem discard_flags (v : Word) : (s.discard v).flags = s.flags := rfl
@[simp] theorem discard_mem (v : Word) : (s.discard v).mem = s.mem := rfl
@[simp] theorem discard_stale (v : Word) : (s.discard v).stale = s.stale := rfl
@[simp] theorem discard_nmiLatch (v : Word) : (s.discard v).nmiLatch = s.nmiLatch := rfl
@[simp] theorem discard_delay (v : Word) : (s.discard v).delay = s.delay := rfl
@[simp] theorem discard_halted (v : Word) : (s.discard v).halted = s.halted := rfl
@[simp] theorem discard_waiting (v : Word) : (s.discard v).waiting = s.waiting := rfl
@[simp] theorem discard_pfx (v : Word) : (s.discard v).pfx = s.pfx := rfl
@[simp] theorem discard_running (v : Word) : (s.discard v).running = s.running := rfl
@[simp] theorem discard_start (v : Word) : (s.discard v).start = s.start := rfl
@[simp] theorem discard_afterWait (v : Word) : (s.discard v).afterWait = s.afterWait := rfl
@[simp] theorem discard_entered (v : Word) : (s.discard v).entered = s.entered := rfl
@[simp] theorem discard_pins (v : Word) : (s.discard v).pins = s.pins := rfl
@[simp] theorem discard_inputs (v : Word) : (s.discard v).inputs = s.inputs := rfl
@[simp] theorem discard_busQueue (v : Word) : (s.discard v).busQueue = s.busQueue := rfl
@[simp] theorem discard_ports (v : Word) : (s.discard v).ports = s.ports := rfl
@[simp] theorem discard_busLog (v : Word) : (s.discard v).busLog = s.busLog := rfl
@[simp] theorem discard_plat (v : Word) : (s.discard v).plat = s.plat := rfl
@[simp] theorem discard_freeIx (v : Word) : (s.discard v).freeIx = s.freeIx := rfl

/-! ### logicFlags -/

@[simp] theorem logicFlags_gpr {n : Nat} (r : BitVec n) : (s.logicFlags r).gpr = s.gpr := rfl
@[simp] theorem logicFlags_sregs {n : Nat} (r : BitVec n) : (s.logicFlags r).sregs = s.sregs := rfl
@[simp] theorem logicFlags_ip {n : Nat} (r : BitVec n) : (s.logicFlags r).ip = s.ip := rfl
@[simp] theorem logicFlags_flags {n : Nat} (r : BitVec n) :
    (s.logicFlags r).flags = s.flags.afterLogic r (s.freeFlag 4) := rfl
@[simp] theorem logicFlags_mem {n : Nat} (r : BitVec n) : (s.logicFlags r).mem = s.mem := rfl
@[simp] theorem logicFlags_stale {n : Nat} (r : BitVec n) : (s.logicFlags r).stale = s.stale := rfl
@[simp] theorem logicFlags_nmiLatch {n : Nat} (r : BitVec n) : (s.logicFlags r).nmiLatch = s.nmiLatch := rfl
@[simp] theorem logicFlags_delay {n : Nat} (r : BitVec n) : (s.logicFlags r).delay = s.delay := rfl
@[simp] theorem logicFlags_halted {n : Nat} (r : BitVec n) : (s.logicFlags r).halted = s.halted := rfl
@[simp] theorem logicFlags_waiting {n : Nat} (r : BitVec n) : (s.logicFlags r).waiting = s.waiting := rfl
@[simp] theorem logicFlags_pfx {n : Nat} (r : BitVec n) : (s.logicFlags r).pfx = s.pfx := rfl
@[simp] theorem logicFlags_running {n : Nat} (r : BitVec n) : (s.logicFlags r).running = s.running := rfl
@[simp] theorem logicFlags_start {n : Nat} (r : BitVec n) : (s.logicFlags r).start = s.start := rfl
@[simp] theorem logicFlags_afterWait {n : Nat} (r : BitVec n) : (s.logicFlags r).afterWait = s.afterWait := rfl
@[simp] theorem logicFlags_entered {n : Nat} (r : BitVec n) : (s.logicFlags r).entered = s.entered := rfl
@[simp] theorem logicFlags_pins {n : Nat} (r : BitVec n) : (s.logicFlags r).pins = s.pins := rfl
@[simp] theorem logicFlags_inputs {n : Nat} (r : BitVec n) : (s.logicFlags r).inputs = s.inputs := rfl
@[simp] theorem logicFlags_busQueue {n : Nat} (r : BitVec n) : (s.logicFlags r).busQueue = s.busQueue := rfl
@[simp] theorem logicFlags_ports {n : Nat} (r : BitVec n) : (s.logicFlags r).ports = s.ports := rfl
@[simp] theorem logicFlags_busLog {n : Nat} (r : BitVec n) : (s.logicFlags r).busLog = s.busLog := rfl
@[simp] theorem logicFlags_plat {n : Nat} (r : BitVec n) : (s.logicFlags r).plat = s.plat := rfl
@[simp] theorem logicFlags_freeIx {n : Nat} (r : BitVec n) : (s.logicFlags r).freeIx = s.freeIx + 1 := rfl

/-! ### shiftFlags -/

@[simp] theorem shiftFlags_gpr (o : ShiftOf) (k n : Nat) (a r : BitVec n) (c : Bool) :
    (s.shiftFlags o k n a r c).gpr = s.gpr := rfl
@[simp] theorem shiftFlags_sregs (o : ShiftOf) (k n : Nat) (a r : BitVec n) (c : Bool) :
    (s.shiftFlags o k n a r c).sregs = s.sregs := rfl
@[simp] theorem shiftFlags_ip (o : ShiftOf) (k n : Nat) (a r : BitVec n) (c : Bool) :
    (s.shiftFlags o k n a r c).ip = s.ip := rfl
@[simp] theorem shiftFlags_flags (o : ShiftOf) (k n : Nat) (a r : BitVec n) (c : Bool) :
    (s.shiftFlags o k n a r c).flags = { (s.flags.setSzp r) with CF := c, AF := s.freeFlag 4, OF := s.shiftOverflow o k n a r c } := rfl
@[simp] theorem shiftFlags_mem (o : ShiftOf) (k n : Nat) (a r : BitVec n) (c : Bool) :
    (s.shiftFlags o k n a r c).mem = s.mem := rfl
@[simp] theorem shiftFlags_stale (o : ShiftOf) (k n : Nat) (a r : BitVec n) (c : Bool) :
    (s.shiftFlags o k n a r c).stale = s.stale := rfl
@[simp] theorem shiftFlags_nmiLatch (o : ShiftOf) (k n : Nat) (a r : BitVec n) (c : Bool) :
    (s.shiftFlags o k n a r c).nmiLatch = s.nmiLatch := rfl
@[simp] theorem shiftFlags_delay (o : ShiftOf) (k n : Nat) (a r : BitVec n) (c : Bool) :
    (s.shiftFlags o k n a r c).delay = s.delay := rfl
@[simp] theorem shiftFlags_halted (o : ShiftOf) (k n : Nat) (a r : BitVec n) (c : Bool) :
    (s.shiftFlags o k n a r c).halted = s.halted := rfl
@[simp] theorem shiftFlags_waiting (o : ShiftOf) (k n : Nat) (a r : BitVec n) (c : Bool) :
    (s.shiftFlags o k n a r c).waiting = s.waiting := rfl
@[simp] theorem shiftFlags_pfx (o : ShiftOf) (k n : Nat) (a r : BitVec n) (c : Bool) :
    (s.shiftFlags o k n a r c).pfx = s.pfx := rfl
@[simp] theorem shiftFlags_running (o : ShiftOf) (k n : Nat) (a r : BitVec n) (c : Bool) :
    (s.shiftFlags o k n a r c).running = s.running := rfl
@[simp] theorem shiftFlags_start (o : ShiftOf) (k n : Nat) (a r : BitVec n) (c : Bool) :
    (s.shiftFlags o k n a r c).start = s.start := rfl
@[simp] theorem shiftFlags_afterWait (o : ShiftOf) (k n : Nat) (a r : BitVec n) (c : Bool) :
    (s.shiftFlags o k n a r c).afterWait = s.afterWait := rfl
@[simp] theorem shiftFlags_entered (o : ShiftOf) (k n : Nat) (a r : BitVec n) (c : Bool) :
    (s.shiftFlags o k n a r c).entered = s.entered := rfl
@[simp] theorem shiftFlags_pins (o : ShiftOf) (k n : Nat) (a r : BitVec n) (c : Bool) :
    (s.shiftFlags o k n a r c).pins = s.pins := rfl
@[simp] theorem shiftFlags_inputs (o : ShiftOf) (k n : Nat) (a r : BitVec n) (c : Bool) :
    (s.shiftFlags o k n a r c).inputs = s.inputs := rfl
@[simp] theorem shiftFlags_busQueue (o : ShiftOf) (k n : Nat) (a r : BitVec n) (c : Bool) :
    (s.shiftFlags o k n a r c).busQueue = s.busQueue := rfl
@[simp] theorem shiftFlags_ports (o : ShiftOf) (k n : Nat) (a r : BitVec n) (c : Bool) :
    (s.shiftFlags o k n a r c).ports = s.ports := rfl
@[simp] theorem shiftFlags_busLog (o : ShiftOf) (k n : Nat) (a r : BitVec n) (c : Bool) :
    (s.shiftFlags o k n a r c).busLog = s.busLog := rfl
@[simp] theorem shiftFlags_plat (o : ShiftOf) (k n : Nat) (a r : BitVec n) (c : Bool) :
    (s.shiftFlags o k n a r c).plat = s.plat := rfl
@[simp] theorem shiftFlags_freeIx (o : ShiftOf) (k n : Nat) (a r : BitVec n) (c : Bool) :
    (s.shiftFlags o k n a r c).freeIx = s.freeIx + 1 := rfl

/-! ### rotateFlags -/

@[simp] theorem rotateFlags_gpr (o : ShiftOf) (k n : Nat) (a r : BitVec n) (c : Bool) :
    (s.rotateFlags o k n a r c).gpr = s.gpr := rfl
@[simp] theorem rotateFlags_sregs (o : ShiftOf) (k n : Nat) (a r : BitVec n) (c : Bool) :
    (s.rotateFlags o k n a r c).sregs = s.sregs := rfl
@[simp] theorem rotateFlags_ip (o : ShiftOf) (k n : Nat) (a r : BitVec n) (c : Bool) :
    (s.rotateFlags o k n a r c).ip = s.ip := rfl
@[simp] theorem rotateFlags_flags (o : ShiftOf) (k n : Nat) (a r : BitVec n) (c : Bool) :
    (s.rotateFlags o k n a r c).flags = { s.flags with CF := c, OF := s.shiftOverflow o k n a r c } := rfl
@[simp] theorem rotateFlags_mem (o : ShiftOf) (k n : Nat) (a r : BitVec n) (c : Bool) :
    (s.rotateFlags o k n a r c).mem = s.mem := rfl
@[simp] theorem rotateFlags_stale (o : ShiftOf) (k n : Nat) (a r : BitVec n) (c : Bool) :
    (s.rotateFlags o k n a r c).stale = s.stale := rfl
@[simp] theorem rotateFlags_nmiLatch (o : ShiftOf) (k n : Nat) (a r : BitVec n) (c : Bool) :
    (s.rotateFlags o k n a r c).nmiLatch = s.nmiLatch := rfl
@[simp] theorem rotateFlags_delay (o : ShiftOf) (k n : Nat) (a r : BitVec n) (c : Bool) :
    (s.rotateFlags o k n a r c).delay = s.delay := rfl
@[simp] theorem rotateFlags_halted (o : ShiftOf) (k n : Nat) (a r : BitVec n) (c : Bool) :
    (s.rotateFlags o k n a r c).halted = s.halted := rfl
@[simp] theorem rotateFlags_waiting (o : ShiftOf) (k n : Nat) (a r : BitVec n) (c : Bool) :
    (s.rotateFlags o k n a r c).waiting = s.waiting := rfl
@[simp] theorem rotateFlags_pfx (o : ShiftOf) (k n : Nat) (a r : BitVec n) (c : Bool) :
    (s.rotateFlags o k n a r c).pfx = s.pfx := rfl
@[simp] theorem rotateFlags_running (o : ShiftOf) (k n : Nat) (a r : BitVec n) (c : Bool) :
    (s.rotateFlags o k n a r c).running = s.running := rfl
@[simp] theorem rotateFlags_start (o : ShiftOf) (k n : Nat) (a r : BitVec n) (c : Bool) :
    (s.rotateFlags o k n a r c).start = s.start := rfl
@[simp] theorem rotateFlags_afterWait (o : ShiftOf) (k n : Nat) (a r : BitVec n) (c : Bool) :
    (s.rotateFlags o k n a r c).afterWait = s.afterWait := rfl
@[simp] theorem rotateFlags_entered (o : ShiftOf) (k n : Nat) (a r : BitVec n) (c : Bool) :
    (s.rotateFlags o k n a r c).entered = s.entered := rfl
@[simp] theorem rotateFlags_pins (o : ShiftOf) (k n : Nat) (a r : BitVec n) (c : Bool) :
    (s.rotateFlags o k n a r c).pins = s.pins := rfl
@[simp] theorem rotateFlags_inputs (o : ShiftOf) (k n : Nat) (a r : BitVec n) (c : Bool) :
    (s.rotateFlags o k n a r c).inputs = s.inputs := rfl
@[simp] theorem rotateFlags_busQueue (o : ShiftOf) (k n : Nat) (a r : BitVec n) (c : Bool) :
    (s.rotateFlags o k n a r c).busQueue = s.busQueue := rfl
@[simp] theorem rotateFlags_ports (o : ShiftOf) (k n : Nat) (a r : BitVec n) (c : Bool) :
    (s.rotateFlags o k n a r c).ports = s.ports := rfl
@[simp] theorem rotateFlags_busLog (o : ShiftOf) (k n : Nat) (a r : BitVec n) (c : Bool) :
    (s.rotateFlags o k n a r c).busLog = s.busLog := rfl
@[simp] theorem rotateFlags_plat (o : ShiftOf) (k n : Nat) (a r : BitVec n) (c : Bool) :
    (s.rotateFlags o k n a r c).plat = s.plat := rfl
@[simp] theorem rotateFlags_freeIx (o : ShiftOf) (k n : Nat) (a r : BitVec n) (c : Bool) :
    (s.rotateFlags o k n a r c).freeIx = s.freeIx + 1 := rfl

/-! ### decimal -/

@[simp] theorem decimal_gpr (al : Byte) (af cf : Bool) : (s.decimal al af cf).gpr = s.gpr.setW .byte .r000 al := rfl
@[simp] theorem decimal_sregs (al : Byte) (af cf : Bool) : (s.decimal al af cf).sregs = s.sregs := rfl
@[simp] theorem decimal_ip (al : Byte) (af cf : Bool) : (s.decimal al af cf).ip = s.ip := rfl
@[simp] theorem decimal_flags (al : Byte) (af cf : Bool) :
    (s.decimal al af cf).flags = { (s.flags.setSzp al) with AF := af, CF := cf, OF := s.freeFlag 11 } := rfl
@[simp] theorem decimal_mem (al : Byte) (af cf : Bool) : (s.decimal al af cf).mem = s.mem := rfl
@[simp] theorem decimal_stale (al : Byte) (af cf : Bool) : (s.decimal al af cf).stale = s.stale := rfl
@[simp] theorem decimal_nmiLatch (al : Byte) (af cf : Bool) : (s.decimal al af cf).nmiLatch = s.nmiLatch := rfl
@[simp] theorem decimal_delay (al : Byte) (af cf : Bool) : (s.decimal al af cf).delay = s.delay := rfl
@[simp] theorem decimal_halted (al : Byte) (af cf : Bool) : (s.decimal al af cf).halted = s.halted := rfl
@[simp] theorem decimal_waiting (al : Byte) (af cf : Bool) : (s.decimal al af cf).waiting = s.waiting := rfl
@[simp] theorem decimal_pfx (al : Byte) (af cf : Bool) : (s.decimal al af cf).pfx = s.pfx := rfl
@[simp] theorem decimal_running (al : Byte) (af cf : Bool) : (s.decimal al af cf).running = s.running := rfl
@[simp] theorem decimal_start (al : Byte) (af cf : Bool) : (s.decimal al af cf).start = s.start := rfl
@[simp] theorem decimal_afterWait (al : Byte) (af cf : Bool) : (s.decimal al af cf).afterWait = s.afterWait := rfl
@[simp] theorem decimal_entered (al : Byte) (af cf : Bool) : (s.decimal al af cf).entered = s.entered := rfl
@[simp] theorem decimal_pins (al : Byte) (af cf : Bool) : (s.decimal al af cf).pins = s.pins := rfl
@[simp] theorem decimal_inputs (al : Byte) (af cf : Bool) : (s.decimal al af cf).inputs = s.inputs := rfl
@[simp] theorem decimal_busQueue (al : Byte) (af cf : Bool) : (s.decimal al af cf).busQueue = s.busQueue := rfl
@[simp] theorem decimal_ports (al : Byte) (af cf : Bool) : (s.decimal al af cf).ports = s.ports := rfl
@[simp] theorem decimal_busLog (al : Byte) (af cf : Bool) : (s.decimal al af cf).busLog = s.busLog := rfl
@[simp] theorem decimal_plat (al : Byte) (af cf : Bool) : (s.decimal al af cf).plat = s.plat := rfl
@[simp] theorem decimal_freeIx (al : Byte) (af cf : Bool) : (s.decimal al af cf).freeIx = s.freeIx + 1 := rfl

/-! ### freeDecimal -/

@[simp] theorem freeDecimal_gpr :
    s.freeDecimal.gpr = s.gpr.setW .byte .r000 (lowByte (Config.freeWord s.freeIx 0)) := rfl
@[simp] theorem freeDecimal_sregs : s.freeDecimal.sregs = s.sregs := rfl
@[simp] theorem freeDecimal_ip : s.freeDecimal.ip = s.ip := rfl
@[simp] theorem freeDecimal_flags : s.freeDecimal.flags = s.freeArithFlags.flags := rfl
@[simp] theorem freeDecimal_mem : s.freeDecimal.mem = s.mem := rfl
@[simp] theorem freeDecimal_stale : s.freeDecimal.stale = s.stale := rfl
@[simp] theorem freeDecimal_nmiLatch : s.freeDecimal.nmiLatch = s.nmiLatch := rfl
@[simp] theorem freeDecimal_delay : s.freeDecimal.delay = s.delay := rfl
@[simp] theorem freeDecimal_halted : s.freeDecimal.halted = s.halted := rfl
@[simp] theorem freeDecimal_waiting : s.freeDecimal.waiting = s.waiting := rfl
@[simp] theorem freeDecimal_pfx : s.freeDecimal.pfx = s.pfx := rfl
@[simp] theorem freeDecimal_running : s.freeDecimal.running = s.running := rfl
@[simp] theorem freeDecimal_start : s.freeDecimal.start = s.start := rfl
@[simp] theorem freeDecimal_afterWait : s.freeDecimal.afterWait = s.afterWait := rfl
@[simp] theorem freeDecimal_entered : s.freeDecimal.entered = s.entered := rfl
@[simp] theorem freeDecimal_pins : s.freeDecimal.pins = s.pins := rfl
@[simp] theorem freeDecimal_inputs : s.freeDecimal.inputs = s.inputs := rfl
@[simp] theorem freeDecimal_busQueue : s.freeDecimal.busQueue = s.busQueue := rfl
@[simp] theorem freeDecimal_ports : s.freeDecimal.ports = s.ports := rfl
@[simp] theorem freeDecimal_busLog : s.freeDecimal.busLog = s.busLog := rfl
@[simp] theorem freeDecimal_plat : s.freeDecimal.plat = s.plat := rfl
@[simp] theorem freeDecimal_freeIx : s.freeDecimal.freeIx = s.freeIx + 1 := rfl

/-! ### Writes to the memory bus: they touch memory, the queue's record and the log only -/

@[simp] theorem busWrite_gpr (a : PAddr) (b : Byte) : (s.busWrite a b).gpr = s.gpr := by
  unfold State.busWrite; split <;> rfl
@[simp] theorem busWrite_sregs (a : PAddr) (b : Byte) : (s.busWrite a b).sregs = s.sregs := by
  unfold State.busWrite; split <;> rfl
@[simp] theorem busWrite_ip (a : PAddr) (b : Byte) : (s.busWrite a b).ip = s.ip := by
  unfold State.busWrite; split <;> rfl
@[simp] theorem busWrite_flags (a : PAddr) (b : Byte) : (s.busWrite a b).flags = s.flags := by
  unfold State.busWrite; split <;> rfl
@[simp] theorem busWrite_nmiLatch (a : PAddr) (b : Byte) : (s.busWrite a b).nmiLatch = s.nmiLatch := by
  unfold State.busWrite; split <;> rfl
@[simp] theorem busWrite_delay (a : PAddr) (b : Byte) : (s.busWrite a b).delay = s.delay := by
  unfold State.busWrite; split <;> rfl
@[simp] theorem busWrite_halted (a : PAddr) (b : Byte) : (s.busWrite a b).halted = s.halted := by
  unfold State.busWrite; split <;> rfl
@[simp] theorem busWrite_waiting (a : PAddr) (b : Byte) : (s.busWrite a b).waiting = s.waiting := by
  unfold State.busWrite; split <;> rfl
@[simp] theorem busWrite_pfx (a : PAddr) (b : Byte) : (s.busWrite a b).pfx = s.pfx := by
  unfold State.busWrite; split <;> rfl
@[simp] theorem busWrite_running (a : PAddr) (b : Byte) : (s.busWrite a b).running = s.running := by
  unfold State.busWrite; split <;> rfl
@[simp] theorem busWrite_start (a : PAddr) (b : Byte) : (s.busWrite a b).start = s.start := by
  unfold State.busWrite; split <;> rfl
@[simp] theorem busWrite_afterWait (a : PAddr) (b : Byte) : (s.busWrite a b).afterWait = s.afterWait := by
  unfold State.busWrite; split <;> rfl
@[simp] theorem busWrite_entered (a : PAddr) (b : Byte) : (s.busWrite a b).entered = s.entered := by
  unfold State.busWrite; split <;> rfl
@[simp] theorem busWrite_pins (a : PAddr) (b : Byte) : (s.busWrite a b).pins = s.pins := by
  unfold State.busWrite; split <;> rfl
@[simp] theorem busWrite_inputs (a : PAddr) (b : Byte) : (s.busWrite a b).inputs = s.inputs := by
  unfold State.busWrite; split <;> rfl
@[simp] theorem busWrite_busQueue (a : PAddr) (b : Byte) : (s.busWrite a b).busQueue = s.busQueue := by
  unfold State.busWrite; split <;> rfl
@[simp] theorem busWrite_ports (a : PAddr) (b : Byte) : (s.busWrite a b).ports = s.ports := by
  unfold State.busWrite; split <;> rfl
@[simp] theorem busWrite_plat (a : PAddr) (b : Byte) : (s.busWrite a b).plat = s.plat := by
  unfold State.busWrite; split <;> rfl
@[simp] theorem busWrite_freeIx (a : PAddr) (b : Byte) : (s.busWrite a b).freeIx = s.freeIx := by
  unfold State.busWrite; split <;> rfl
@[simp] theorem write8_gpr (g o : Word) (b : Byte) : (s.write8 g o b).gpr = s.gpr := by simp [State.write8]
@[simp] theorem write8_sregs (g o : Word) (b : Byte) : (s.write8 g o b).sregs = s.sregs := by simp [State.write8]
@[simp] theorem write8_ip (g o : Word) (b : Byte) : (s.write8 g o b).ip = s.ip := by simp [State.write8]
@[simp] theorem write8_flags (g o : Word) (b : Byte) : (s.write8 g o b).flags = s.flags := by simp [State.write8]
@[simp] theorem write8_nmiLatch (g o : Word) (b : Byte) :
    (s.write8 g o b).nmiLatch = s.nmiLatch := by simp [State.write8]
@[simp] theorem write8_delay (g o : Word) (b : Byte) : (s.write8 g o b).delay = s.delay := by simp [State.write8]
@[simp] theorem write8_halted (g o : Word) (b : Byte) : (s.write8 g o b).halted = s.halted := by simp [State.write8]
@[simp] theorem write8_waiting (g o : Word) (b : Byte) : (s.write8 g o b).waiting = s.waiting := by simp [State.write8]
@[simp] theorem write8_pfx (g o : Word) (b : Byte) : (s.write8 g o b).pfx = s.pfx := by simp [State.write8]
@[simp] theorem write8_running (g o : Word) (b : Byte) : (s.write8 g o b).running = s.running := by simp [State.write8]
@[simp] theorem write8_start (g o : Word) (b : Byte) : (s.write8 g o b).start = s.start := by simp [State.write8]
@[simp] theorem write8_afterWait (g o : Word) (b : Byte) :
    (s.write8 g o b).afterWait = s.afterWait := by simp [State.write8]
@[simp] theorem write8_entered (g o : Word) (b : Byte) : (s.write8 g o b).entered = s.entered := by simp [State.write8]
@[simp] theorem write8_pins (g o : Word) (b : Byte) : (s.write8 g o b).pins = s.pins := by simp [State.write8]
@[simp] theorem write8_inputs (g o : Word) (b : Byte) : (s.write8 g o b).inputs = s.inputs := by simp [State.write8]
@[simp] theorem write8_busQueue (g o : Word) (b : Byte) :
    (s.write8 g o b).busQueue = s.busQueue := by simp [State.write8]
@[simp] theorem write8_ports (g o : Word) (b : Byte) : (s.write8 g o b).ports = s.ports := by simp [State.write8]
@[simp] theorem write8_plat (g o : Word) (b : Byte) : (s.write8 g o b).plat = s.plat := by simp [State.write8]
@[simp] theorem write8_freeIx (g o : Word) (b : Byte) : (s.write8 g o b).freeIx = s.freeIx := by simp [State.write8]
@[simp] theorem write16_gpr (g o v : Word) : (s.write16 g o v).gpr = s.gpr := by simp [State.write16]
@[simp] theorem write16_sregs (g o v : Word) : (s.write16 g o v).sregs = s.sregs := by simp [State.write16]
@[simp] theorem write16_ip (g o v : Word) : (s.write16 g o v).ip = s.ip := by simp [State.write16]
@[simp] theorem write16_flags (g o v : Word) : (s.write16 g o v).flags = s.flags := by simp [State.write16]
@[simp] theorem write16_nmiLatch (g o v : Word) : (s.write16 g o v).nmiLatch = s.nmiLatch := by simp [State.write16]
@[simp] theorem write16_delay (g o v : Word) : (s.write16 g o v).delay = s.delay := by simp [State.write16]
@[simp] theorem write16_halted (g o v : Word) : (s.write16 g o v).halted = s.halted := by simp [State.write16]
@[simp] theorem write16_waiting (g o v : Word) : (s.write16 g o v).waiting = s.waiting := by simp [State.write16]
@[simp] theorem write16_pfx (g o v : Word) : (s.write16 g o v).pfx = s.pfx := by simp [State.write16]
@[simp] theorem write16_running (g o v : Word) : (s.write16 g o v).running = s.running := by simp [State.write16]
@[simp] theorem write16_start (g o v : Word) : (s.write16 g o v).start = s.start := by simp [State.write16]
@[simp] theorem write16_afterWait (g o v : Word) : (s.write16 g o v).afterWait = s.afterWait := by simp [State.write16]
@[simp] theorem write16_entered (g o v : Word) : (s.write16 g o v).entered = s.entered := by simp [State.write16]
@[simp] theorem write16_pins (g o v : Word) : (s.write16 g o v).pins = s.pins := by simp [State.write16]
@[simp] theorem write16_inputs (g o v : Word) : (s.write16 g o v).inputs = s.inputs := by simp [State.write16]
@[simp] theorem write16_busQueue (g o v : Word) : (s.write16 g o v).busQueue = s.busQueue := by simp [State.write16]
@[simp] theorem write16_ports (g o v : Word) : (s.write16 g o v).ports = s.ports := by simp [State.write16]
@[simp] theorem write16_plat (g o v : Word) : (s.write16 g o v).plat = s.plat := by simp [State.write16]
@[simp] theorem write16_freeIx (g o v : Word) : (s.write16 g o v).freeIx = s.freeIx := by simp [State.write16]
@[simp] theorem writeW_gpr (w : Width) (g o : Word) (v : BitVec w.bits) : (s.writeW w g o v).gpr = s.gpr := by
  cases w <;> simp [State.writeW]
@[simp] theorem writeW_sregs (w : Width) (g o : Word) (v : BitVec w.bits) : (s.writeW w g o v).sregs = s.sregs := by
  cases w <;> simp [State.writeW]
@[simp] theorem writeW_ip (w : Width) (g o : Word) (v : BitVec w.bits) : (s.writeW w g o v).ip = s.ip := by
  cases w <;> simp [State.writeW]
@[simp] theorem writeW_flags (w : Width) (g o : Word) (v : BitVec w.bits) : (s.writeW w g o v).flags = s.flags := by
  cases w <;> simp [State.writeW]
@[simp] theorem writeW_nmiLatch (w : Width) (g o : Word) (v : BitVec w.bits) :
    (s.writeW w g o v).nmiLatch = s.nmiLatch := by
  cases w <;> simp [State.writeW]
@[simp] theorem writeW_delay (w : Width) (g o : Word) (v : BitVec w.bits) : (s.writeW w g o v).delay = s.delay := by
  cases w <;> simp [State.writeW]
@[simp] theorem writeW_halted (w : Width) (g o : Word) (v : BitVec w.bits) : (s.writeW w g o v).halted = s.halted := by
  cases w <;> simp [State.writeW]
@[simp] theorem writeW_waiting (w : Width) (g o : Word) (v : BitVec w.bits) :
    (s.writeW w g o v).waiting = s.waiting := by
  cases w <;> simp [State.writeW]
@[simp] theorem writeW_pfx (w : Width) (g o : Word) (v : BitVec w.bits) : (s.writeW w g o v).pfx = s.pfx := by
  cases w <;> simp [State.writeW]
@[simp] theorem writeW_running (w : Width) (g o : Word) (v : BitVec w.bits) :
    (s.writeW w g o v).running = s.running := by
  cases w <;> simp [State.writeW]
@[simp] theorem writeW_start (w : Width) (g o : Word) (v : BitVec w.bits) : (s.writeW w g o v).start = s.start := by
  cases w <;> simp [State.writeW]
@[simp] theorem writeW_afterWait (w : Width) (g o : Word) (v : BitVec w.bits) :
    (s.writeW w g o v).afterWait = s.afterWait := by
  cases w <;> simp [State.writeW]
@[simp] theorem writeW_entered (w : Width) (g o : Word) (v : BitVec w.bits) :
    (s.writeW w g o v).entered = s.entered := by
  cases w <;> simp [State.writeW]
@[simp] theorem writeW_pins (w : Width) (g o : Word) (v : BitVec w.bits) : (s.writeW w g o v).pins = s.pins := by
  cases w <;> simp [State.writeW]
@[simp] theorem writeW_inputs (w : Width) (g o : Word) (v : BitVec w.bits) : (s.writeW w g o v).inputs = s.inputs := by
  cases w <;> simp [State.writeW]
@[simp] theorem writeW_busQueue (w : Width) (g o : Word) (v : BitVec w.bits) :
    (s.writeW w g o v).busQueue = s.busQueue := by
  cases w <;> simp [State.writeW]
@[simp] theorem writeW_ports (w : Width) (g o : Word) (v : BitVec w.bits) : (s.writeW w g o v).ports = s.ports := by
  cases w <;> simp [State.writeW]
@[simp] theorem writeW_plat (w : Width) (g o : Word) (v : BitVec w.bits) : (s.writeW w g o v).plat = s.plat := by
  cases w <;> simp [State.writeW]
@[simp] theorem writeW_freeIx (w : Width) (g o : Word) (v : BitVec w.bits) : (s.writeW w g o v).freeIx = s.freeIx := by
  cases w <;> simp [State.writeW]
@[simp] theorem push16_gpr (v : Word) : (s.push16 v).gpr = s.gpr.set .r100 (s.gpr.sp - 2) := by simp [State.push16]
@[simp] theorem push16_sregs (v : Word) : (s.push16 v).sregs = s.sregs := by simp [State.push16]
@[simp] theorem push16_ip (v : Word) : (s.push16 v).ip = s.ip := by simp [State.push16]
@[simp] theorem push16_flags (v : Word) : (s.push16 v).flags = s.flags := by simp [State.push16]
@[simp] theorem push16_nmiLatch (v : Word) : (s.push16 v).nmiLatch = s.nmiLatch := by simp [State.push16]
@[simp] theorem push16_delay (v : Word) : (s.push16 v).delay = s.delay := by simp [State.push16]
@[simp] theorem push16_halted (v : Word) : (s.push16 v).halted = s.halted := by simp [State.push16]
@[simp] theorem push16_waiting (v : Word) : (s.push16 v).waiting = s.waiting := by simp [State.push16]
@[simp] theorem push16_pfx (v : Word) : (s.push16 v).pfx = s.pfx := by simp [State.push16]
@[simp] theorem push16_running (v : Word) : (s.push16 v).running = s.running := by simp [State.push16]
@[simp] theorem push16_start (v : Word) : (s.push16 v).start = s.start := by simp [State.push16]
@[simp] theorem push16_afterWait (v : Word) : (s.push16 v).afterWait = s.afterWait := by simp [State.push16]
@[simp] theorem push16_entered (v : Word) : (s.push16 v).entered = s.entered := by simp [State.push16]
@[simp] theorem push16_pins (v : Word) : (s.push16 v).pins = s.pins := by simp [State.push16]
@[simp] theorem push16_inputs (v : Word) : (s.push16 v).inputs = s.inputs := by simp [State.push16]
@[simp] theorem push16_busQueue (v : Word) : (s.push16 v).busQueue = s.busQueue := by simp [State.push16]
@[simp] theorem push16_ports (v : Word) : (s.push16 v).ports = s.ports := by simp [State.push16]
@[simp] theorem push16_plat (v : Word) : (s.push16 v).plat = s.plat := by simp [State.push16]
@[simp] theorem push16_freeIx (v : Word) : (s.push16 v).freeIx = s.freeIx := by simp [State.push16]
@[simp] theorem rmWrite_sregs (w : Width) (rm : RM) (v : BitVec w.bits) : (s.rmWrite w rm v).sregs = s.sregs := by
  cases rm <;> simp [State.rmWrite]
@[simp] theorem rmWrite_ip (w : Width) (rm : RM) (v : BitVec w.bits) : (s.rmWrite w rm v).ip = s.ip := by
  cases rm <;> simp [State.rmWrite]
@[simp] theorem rmWrite_flags (w : Width) (rm : RM) (v : BitVec w.bits) : (s.rmWrite w rm v).flags = s.flags := by
  cases rm <;> simp [State.rmWrite]
@[simp] theorem rmWrite_nmiLatch (w : Width) (rm : RM) (v : BitVec w.bits) :
    (s.rmWrite w rm v).nmiLatch = s.nmiLatch := by
  cases rm <;> simp [State.rmWrite]
@[simp] theorem rmWrite_delay (w : Width) (rm : RM) (v : BitVec w.bits) : (s.rmWrite w rm v).delay = s.delay := by
  cases rm <;> simp [State.rmWrite]
@[simp] theorem rmWrite_halted (w : Width) (rm : RM) (v : BitVec w.bits) : (s.rmWrite w rm v).halted = s.halted := by
  cases rm <;> simp [State.rmWrite]
@[simp] theorem rmWrite_waiting (w : Width) (rm : RM) (v : BitVec w.bits) : (s.rmWrite w rm v).waiting = s.waiting := by
  cases rm <;> simp [State.rmWrite]
@[simp] theorem rmWrite_pfx (w : Width) (rm : RM) (v : BitVec w.bits) : (s.rmWrite w rm v).pfx = s.pfx := by
  cases rm <;> simp [State.rmWrite]
@[simp] theorem rmWrite_running (w : Width) (rm : RM) (v : BitVec w.bits) : (s.rmWrite w rm v).running = s.running := by
  cases rm <;> simp [State.rmWrite]
@[simp] theorem rmWrite_start (w : Width) (rm : RM) (v : BitVec w.bits) : (s.rmWrite w rm v).start = s.start := by
  cases rm <;> simp [State.rmWrite]
@[simp] theorem rmWrite_afterWait (w : Width) (rm : RM) (v : BitVec w.bits) :
    (s.rmWrite w rm v).afterWait = s.afterWait := by
  cases rm <;> simp [State.rmWrite]
@[simp] theorem rmWrite_entered (w : Width) (rm : RM) (v : BitVec w.bits) : (s.rmWrite w rm v).entered = s.entered := by
  cases rm <;> simp [State.rmWrite]
@[simp] theorem rmWrite_pins (w : Width) (rm : RM) (v : BitVec w.bits) : (s.rmWrite w rm v).pins = s.pins := by
  cases rm <;> simp [State.rmWrite]
@[simp] theorem rmWrite_inputs (w : Width) (rm : RM) (v : BitVec w.bits) : (s.rmWrite w rm v).inputs = s.inputs := by
  cases rm <;> simp [State.rmWrite]
@[simp] theorem rmWrite_busQueue (w : Width) (rm : RM) (v : BitVec w.bits) :
    (s.rmWrite w rm v).busQueue = s.busQueue := by
  cases rm <;> simp [State.rmWrite]
@[simp] theorem rmWrite_ports (w : Width) (rm : RM) (v : BitVec w.bits) : (s.rmWrite w rm v).ports = s.ports := by
  cases rm <;> simp [State.rmWrite]
@[simp] theorem rmWrite_plat (w : Width) (rm : RM) (v : BitVec w.bits) : (s.rmWrite w rm v).plat = s.plat := by
  cases rm <;> simp [State.rmWrite]
@[simp] theorem rmWrite_freeIx (w : Width) (rm : RM) (v : BitVec w.bits) : (s.rmWrite w rm v).freeIx = s.freeIx := by
  cases rm <;> simp [State.rmWrite]

/-! ### Writes to ports -/

@[simp] theorem ioWrite16_gpr (p v : Word) : (s.ioWrite16 p v).gpr = s.gpr := rfl
@[simp] theorem ioWrite16_sregs (p v : Word) : (s.ioWrite16 p v).sregs = s.sregs := rfl
@[simp] theorem ioWrite16_ip (p v : Word) : (s.ioWrite16 p v).ip = s.ip := rfl
@[simp] theorem ioWrite16_flags (p v : Word) : (s.ioWrite16 p v).flags = s.flags := rfl
@[simp] theorem ioWrite16_mem (p v : Word) : (s.ioWrite16 p v).mem = s.mem := rfl
@[simp] theorem ioWrite16_stale (p v : Word) : (s.ioWrite16 p v).stale = s.stale := rfl
@[simp] theorem ioWrite16_nmiLatch (p v : Word) : (s.ioWrite16 p v).nmiLatch = s.nmiLatch := rfl
@[simp] theorem ioWrite16_delay (p v : Word) : (s.ioWrite16 p v).delay = s.delay := rfl
@[simp] theorem ioWrite16_halted (p v : Word) : (s.ioWrite16 p v).halted = s.halted := rfl
@[simp] theorem ioWrite16_waiting (p v : Word) : (s.ioWrite16 p v).waiting = s.waiting := rfl
@[simp] theorem ioWrite16_pfx (p v : Word) : (s.ioWrite16 p v).pfx = s.pfx := rfl
@[simp] theorem ioWrite16_running (p v : Word) : (s.ioWrite16 p v).running = s.running := rfl
@[simp] theorem ioWrite16_start (p v : Word) : (s.ioWrite16 p v).start = s.start := rfl
@[simp] theorem ioWrite16_afterWait (p v : Word) : (s.ioWrite16 p v).afterWait = s.afterWait := rfl
@[simp] theorem ioWrite16_entered (p v : Word) : (s.ioWrite16 p v).entered = s.entered := rfl
@[simp] theorem ioWrite16_pins (p v : Word) : (s.ioWrite16 p v).pins = s.pins := rfl
@[simp] theorem ioWrite16_inputs (p v : Word) : (s.ioWrite16 p v).inputs = s.inputs := rfl
@[simp] theorem ioWrite16_busQueue (p v : Word) : (s.ioWrite16 p v).busQueue = s.busQueue := rfl
@[simp] theorem ioWrite16_ports (p v : Word) : (s.ioWrite16 p v).ports = s.ports := rfl
@[simp] theorem ioWrite16_plat (p v : Word) : (s.ioWrite16 p v).plat = s.plat := rfl
@[simp] theorem ioWrite16_freeIx (p v : Word) : (s.ioWrite16 p v).freeIx = s.freeIx := rfl
@[simp] theorem ioWriteW_gpr (w : Width) (p : Word) (v : BitVec w.bits) : (s.ioWriteW w p v).gpr = s.gpr := by
  cases w <;> simp [State.ioWriteW]
@[simp] theorem ioWriteW_sregs (w : Width) (p : Word) (v : BitVec w.bits) : (s.ioWriteW w p v).sregs = s.sregs := by
  cases w <;> simp [State.ioWriteW]
@[simp] theorem ioWriteW_ip (w : Width) (p : Word) (v : BitVec w.bits) : (s.ioWriteW w p v).ip = s.ip := by
  cases w <;> simp [State.ioWriteW]
@[simp] theorem ioWriteW_flags (w : Width) (p : Word) (v : BitVec w.bits) : (s.ioWriteW w p v).flags = s.flags := by
  cases w <;> simp [State.ioWriteW]
@[simp] theorem ioWriteW_mem (w : Width) (p : Word) (v : BitVec w.bits) : (s.ioWriteW w p v).mem = s.mem := by
  cases w <;> simp [State.ioWriteW]
@[simp] theorem ioWriteW_stale (w : Width) (p : Word) (v : BitVec w.bits) : (s.ioWriteW w p v).stale = s.stale := by
  cases w <;> simp [State.ioWriteW]
@[simp] theorem ioWriteW_nmiLatch (w : Width) (p : Word) (v : BitVec w.bits) :
    (s.ioWriteW w p v).nmiLatch = s.nmiLatch := by
  cases w <;> simp [State.ioWriteW]
@[simp] theorem ioWriteW_delay (w : Width) (p : Word) (v : BitVec w.bits) : (s.ioWriteW w p v).delay = s.delay := by
  cases w <;> simp [State.ioWriteW]
@[simp] theorem ioWriteW_halted (w : Width) (p : Word) (v : BitVec w.bits) : (s.ioWriteW w p v).halted = s.halted := by
  cases w <;> simp [State.ioWriteW]
@[simp] theorem ioWriteW_waiting (w : Width) (p : Word) (v : BitVec w.bits) :
    (s.ioWriteW w p v).waiting = s.waiting := by
  cases w <;> simp [State.ioWriteW]
@[simp] theorem ioWriteW_pfx (w : Width) (p : Word) (v : BitVec w.bits) : (s.ioWriteW w p v).pfx = s.pfx := by
  cases w <;> simp [State.ioWriteW]
@[simp] theorem ioWriteW_running (w : Width) (p : Word) (v : BitVec w.bits) :
    (s.ioWriteW w p v).running = s.running := by
  cases w <;> simp [State.ioWriteW]
@[simp] theorem ioWriteW_start (w : Width) (p : Word) (v : BitVec w.bits) : (s.ioWriteW w p v).start = s.start := by
  cases w <;> simp [State.ioWriteW]
@[simp] theorem ioWriteW_afterWait (w : Width) (p : Word) (v : BitVec w.bits) :
    (s.ioWriteW w p v).afterWait = s.afterWait := by
  cases w <;> simp [State.ioWriteW]
@[simp] theorem ioWriteW_entered (w : Width) (p : Word) (v : BitVec w.bits) :
    (s.ioWriteW w p v).entered = s.entered := by
  cases w <;> simp [State.ioWriteW]
@[simp] theorem ioWriteW_pins (w : Width) (p : Word) (v : BitVec w.bits) : (s.ioWriteW w p v).pins = s.pins := by
  cases w <;> simp [State.ioWriteW]
@[simp] theorem ioWriteW_inputs (w : Width) (p : Word) (v : BitVec w.bits) : (s.ioWriteW w p v).inputs = s.inputs := by
  cases w <;> simp [State.ioWriteW]
@[simp] theorem ioWriteW_busQueue (w : Width) (p : Word) (v : BitVec w.bits) :
    (s.ioWriteW w p v).busQueue = s.busQueue := by
  cases w <;> simp [State.ioWriteW]
@[simp] theorem ioWriteW_ports (w : Width) (p : Word) (v : BitVec w.bits) : (s.ioWriteW w p v).ports = s.ports := by
  cases w <;> simp [State.ioWriteW]
@[simp] theorem ioWriteW_plat (w : Width) (p : Word) (v : BitVec w.bits) : (s.ioWriteW w p v).plat = s.plat := by
  cases w <;> simp [State.ioWriteW]
@[simp] theorem ioWriteW_freeIx (w : Width) (p : Word) (v : BitVec w.bits) : (s.ioWriteW w p v).freeIx = s.freeIx := by
  cases w <;> simp [State.ioWriteW]

/-! ### Gaps between bus transfers: memory, the queue's record and what other masters have left to write -/

@[simp] theorem masterWrite_gpr (a : PAddr) (b : Byte) : (s.masterWrite a b).gpr = s.gpr := by
  unfold State.masterWrite; split <;> rfl
@[simp] theorem masterWrite_sregs (a : PAddr) (b : Byte) : (s.masterWrite a b).sregs = s.sregs := by
  unfold State.masterWrite; split <;> rfl
@[simp] theorem masterWrite_ip (a : PAddr) (b : Byte) : (s.masterWrite a b).ip = s.ip := by
  unfold State.masterWrite; split <;> rfl
@[simp] theorem masterWrite_flags (a : PAddr) (b : Byte) : (s.masterWrite a b).flags = s.flags := by
  unfold State.masterWrite; split <;> rfl
@[simp] theorem masterWrite_nmiLatch (a : PAddr) (b : Byte) : (s.masterWrite a b).nmiLatch = s.nmiLatch := by
  unfold State.masterWrite; split <;> rfl
@[simp] theorem masterWrite_delay (a : PAddr) (b : Byte) : (s.masterWrite a b).delay = s.delay := by
  unfold State.masterWrite; split <;> rfl
@[simp] theorem masterWrite_halted (a : PAddr) (b : Byte) : (s.masterWrite a b).halted = s.halted := by
  unfold State.masterWrite; split <;> rfl
@[simp] theorem masterWrite_waiting (a : PAddr) (b : Byte) : (s.masterWrite a b).waiting = s.waiting := by
  unfold State.masterWrite; split <;> rfl
@[simp] theorem masterWrite_pfx (a : PAddr) (b : Byte) : (s.masterWrite a b).pfx = s.pfx := by
  unfold State.masterWrite; split <;> rfl
@[simp] theorem masterWrite_running (a : PAddr) (b : Byte) : (s.masterWrite a b).running = s.running := by
  unfold State.masterWrite; split <;> rfl
@[simp] theorem masterWrite_start (a : PAddr) (b : Byte) : (s.masterWrite a b).start = s.start := by
  unfold State.masterWrite; split <;> rfl
@[simp] theorem masterWrite_afterWait (a : PAddr) (b : Byte) : (s.masterWrite a b).afterWait = s.afterWait := by
  unfold State.masterWrite; split <;> rfl
@[simp] theorem masterWrite_entered (a : PAddr) (b : Byte) : (s.masterWrite a b).entered = s.entered := by
  unfold State.masterWrite; split <;> rfl
@[simp] theorem masterWrite_pins (a : PAddr) (b : Byte) : (s.masterWrite a b).pins = s.pins := by
  unfold State.masterWrite; split <;> rfl
@[simp] theorem masterWrite_inputs (a : PAddr) (b : Byte) : (s.masterWrite a b).inputs = s.inputs := by
  unfold State.masterWrite; split <;> rfl
@[simp] theorem masterWrite_busQueue (a : PAddr) (b : Byte) : (s.masterWrite a b).busQueue = s.busQueue := by
  unfold State.masterWrite; split <;> rfl
@[simp] theorem masterWrite_ports (a : PAddr) (b : Byte) : (s.masterWrite a b).ports = s.ports := by
  unfold State.masterWrite; split <;> rfl
@[simp] theorem masterWrite_busLog (a : PAddr) (b : Byte) : (s.masterWrite a b).busLog = s.busLog := by
  unfold State.masterWrite; split <;> rfl
@[simp] theorem masterWrite_plat (a : PAddr) (b : Byte) : (s.masterWrite a b).plat = s.plat := by
  unfold State.masterWrite; split <;> rfl
@[simp] theorem masterWrite_freeIx (a : PAddr) (b : Byte) : (s.masterWrite a b).freeIx = s.freeIx := by
  unfold State.masterWrite; split <;> rfl
@[simp] theorem masterWrites_gpr (l : List (PAddr × Byte)) : (s.masterWrites l).gpr = s.gpr := by
  induction l generalizing s with
  | nil => rfl
  | cons c rest ih => simp [State.masterWrites, ih]
@[simp] theorem masterWrites_sregs (l : List (PAddr × Byte)) : (s.masterWrites l).sregs = s.sregs := by
  induction l generalizing s with
  | nil => rfl
  | cons c rest ih => simp [State.masterWrites, ih]
@[simp] theorem masterWrites_ip (l : List (PAddr × Byte)) : (s.masterWrites l).ip = s.ip := by
  induction l generalizing s with
  | nil => rfl
  | cons c rest ih => simp [State.masterWrites, ih]
@[simp] theorem masterWrites_flags (l : List (PAddr × Byte)) : (s.masterWrites l).flags = s.flags := by
  induction l generalizing s with
  | nil => rfl
  | cons c rest ih => simp [State.masterWrites, ih]
@[simp] theorem masterWrites_nmiLatch (l : List (PAddr × Byte)) : (s.masterWrites l).nmiLatch = s.nmiLatch := by
  induction l generalizing s with
  | nil => rfl
  | cons c rest ih => simp [State.masterWrites, ih]
@[simp] theorem masterWrites_delay (l : List (PAddr × Byte)) : (s.masterWrites l).delay = s.delay := by
  induction l generalizing s with
  | nil => rfl
  | cons c rest ih => simp [State.masterWrites, ih]
@[simp] theorem masterWrites_halted (l : List (PAddr × Byte)) : (s.masterWrites l).halted = s.halted := by
  induction l generalizing s with
  | nil => rfl
  | cons c rest ih => simp [State.masterWrites, ih]
@[simp] theorem masterWrites_waiting (l : List (PAddr × Byte)) : (s.masterWrites l).waiting = s.waiting := by
  induction l generalizing s with
  | nil => rfl
  | cons c rest ih => simp [State.masterWrites, ih]
@[simp] theorem masterWrites_pfx (l : List (PAddr × Byte)) : (s.masterWrites l).pfx = s.pfx := by
  induction l generalizing s with
  | nil => rfl
  | cons c rest ih => simp [State.masterWrites, ih]
@[simp] theorem masterWrites_running (l : List (PAddr × Byte)) : (s.masterWrites l).running = s.running := by
  induction l generalizing s with
  | nil => rfl
  | cons c rest ih => simp [State.masterWrites, ih]
@[simp] theorem masterWrites_start (l : List (PAddr × Byte)) : (s.masterWrites l).start = s.start := by
  induction l generalizing s with
  | nil => rfl
  | cons c rest ih => simp [State.masterWrites, ih]
@[simp] theorem masterWrites_afterWait (l : List (PAddr × Byte)) : (s.masterWrites l).afterWait = s.afterWait := by
  induction l generalizing s with
  | nil => rfl
  | cons c rest ih => simp [State.masterWrites, ih]
@[simp] theorem masterWrites_entered (l : List (PAddr × Byte)) : (s.masterWrites l).entered = s.entered := by
  induction l generalizing s with
  | nil => rfl
  | cons c rest ih => simp [State.masterWrites, ih]
@[simp] theorem masterWrites_pins (l : List (PAddr × Byte)) : (s.masterWrites l).pins = s.pins := by
  induction l generalizing s with
  | nil => rfl
  | cons c rest ih => simp [State.masterWrites, ih]
@[simp] theorem masterWrites_inputs (l : List (PAddr × Byte)) : (s.masterWrites l).inputs = s.inputs := by
  induction l generalizing s with
  | nil => rfl
  | cons c rest ih => simp [State.masterWrites, ih]
@[simp] theorem masterWrites_busQueue (l : List (PAddr × Byte)) : (s.masterWrites l).busQueue = s.busQueue := by
  induction l generalizing s with
  | nil => rfl
  | cons c rest ih => simp [State.masterWrites, ih]
@[simp] theorem masterWrites_ports (l : List (PAddr × Byte)) : (s.masterWrites l).ports = s.ports := by
  induction l generalizing s with
  | nil => rfl
  | cons c rest ih => simp [State.masterWrites, ih]
@[simp] theorem masterWrites_busLog (l : List (PAddr × Byte)) : (s.masterWrites l).busLog = s.busLog := by
  induction l generalizing s with
  | nil => rfl
  | cons c rest ih => simp [State.masterWrites, ih]
@[simp] theorem masterWrites_plat (l : List (PAddr × Byte)) : (s.masterWrites l).plat = s.plat := by
  induction l generalizing s with
  | nil => rfl
  | cons c rest ih => simp [State.masterWrites, ih]
@[simp] theorem masterWrites_freeIx (l : List (PAddr × Byte)) : (s.masterWrites l).freeIx = s.freeIx := by
  induction l generalizing s with
  | nil => rfl
  | cons c rest ih => simp [State.masterWrites, ih]
@[simp] theorem yieldBus_gpr : s.yieldBus.gpr = s.gpr := by
  unfold State.yieldBus; (repeat' split) <;> simp
@[simp] theorem yieldBus_sregs : s.yieldBus.sregs = s.sregs := by
  unfold State.yieldBus; (repeat' split) <;> simp
@[simp] theorem yieldBus_ip : s.yieldBus.ip = s.ip := by
  unfold State.yieldBus; (repeat' split) <;> simp
@[simp] theorem yieldBus_flags : s.yieldBus.flags = s.flags := by
  unfold State.yieldBus; (repeat' split) <;> simp
@[simp] theorem yieldBus_nmiLatch : s.yieldBus.nmiLatch = s.nmiLatch := by
  unfold State.yieldBus; (repeat' split) <;> simp
@[simp] theorem yieldBus_delay : s.yieldBus.delay = s.delay := by
  unfold State.yieldBus; (repeat' split) <;> simp
@[simp] theorem yieldBus_halted : s.yieldBus.halted = s.halted := by
  unfold State.yieldBus; (repeat' split) <;> simp
@[simp] theorem yieldBus_waiting : s.yieldBus.waiting = s.waiting := by
  unfold State.yieldBus; (repeat' split) <;> simp
@[simp] theorem yieldBus_pfx : s.yieldBus.pfx = s.pfx := by
  unfold State.yieldBus; (repeat' split) <;> simp
@[simp] theorem yieldBus_running : s.yieldBus.running = s.running := by
  unfold State.yieldBus; (repeat' split) <;> simp
@[simp] theorem yieldBus_start : s.yieldBus.start = s.start := by
  unfold State.yieldBus; (repeat' split) <;> simp
@[simp] theorem yieldBus_afterWait : s.yieldBus.afterWait = s.afterWait := by
  unfold State.yieldBus; (repeat' split) <;> simp
@[simp] theorem yieldBus_entered : s.yieldBus.entered = s.entered := by
  unfold State.yieldBus; (repeat' split) <;> simp
@[simp] theorem yieldBus_pins : s.yieldBus.pins = s.pins := by
  unfold State.yieldBus; (repeat' split) <;> simp
@[simp] theorem yieldBus_inputs : s.yieldBus.inputs = s.inputs := by
  unfold State.yieldBus; (repeat' split) <;> simp
@[simp] theorem yieldBus_ports : s.yieldBus.ports = s.ports := by
  unfold State.yieldBus; (repeat' split) <;> simp
@[simp] theorem yieldBus_busLog : s.yieldBus.busLog = s.busLog := by
  unfold State.yieldBus; (repeat' split) <;> simp
@[simp] theorem yieldBus_plat : s.yieldBus.plat = s.plat := by
  unfold State.yieldBus; (repeat' split) <;> simp
@[simp] theorem yieldBus_freeIx : s.yieldBus.freeIx = s.freeIx := by
  unfold State.yieldBus; (repeat' split) <;> simp
@[simp] theorem operandGap_gpr (rm : RM) : (s.operandGap rm).gpr = s.gpr := by
  cases rm <;> simp [State.operandGap]
@[simp] theorem operandGap_sregs (rm : RM) : (s.operandGap rm).sregs = s.sregs := by
  cases rm <;> simp [State.operandGap]
@[simp] theorem operandGap_ip (rm : RM) : (s.operandGap rm).ip = s.ip := by
  cases rm <;> simp [State.operandGap]
@[simp] theorem operandGap_flags (rm : RM) : (s.operandGap rm).flags = s.flags := by
  cases rm <;> simp [State.operandGap]
@[simp] theorem operandGap_nmiLatch (rm : RM) : (s.operandGap rm).nmiLatch = s.nmiLatch := by
  cases rm <;> simp [State.operandGap]
@[simp] theorem operandGap_delay (rm : RM) : (s.operandGap rm).delay = s.delay := by
  cases rm <;> simp [State.operandGap]
@[simp] theorem operandGap_halted (rm : RM) : (s.operandGap rm).halted = s.halted := by
  cases rm <;> simp [State.operandGap]
@[simp] theorem operandGap_waiting (rm : RM) : (s.operandGap rm).waiting = s.waiting := by
  cases rm <;> simp [State.operandGap]
@[simp] theorem operandGap_pfx (rm : RM) : (s.operandGap rm).pfx = s.pfx := by
  cases rm <;> simp [State.operandGap]
@[simp] theorem operandGap_running (rm : RM) : (s.operandGap rm).running = s.running := by
  cases rm <;> simp [State.operandGap]
@[simp] theorem operandGap_start (rm : RM) : (s.operandGap rm).start = s.start := by
  cases rm <;> simp [State.operandGap]
@[simp] theorem operandGap_afterWait (rm : RM) : (s.operandGap rm).afterWait = s.afterWait := by
  cases rm <;> simp [State.operandGap]
@[simp] theorem operandGap_entered (rm : RM) : (s.operandGap rm).entered = s.entered := by
  cases rm <;> simp [State.operandGap]
@[simp] theorem operandGap_pins (rm : RM) : (s.operandGap rm).pins = s.pins := by
  cases rm <;> simp [State.operandGap]
@[simp] theorem operandGap_inputs (rm : RM) : (s.operandGap rm).inputs = s.inputs := by
  cases rm <;> simp [State.operandGap]
@[simp] theorem operandGap_ports (rm : RM) : (s.operandGap rm).ports = s.ports := by
  cases rm <;> simp [State.operandGap]
@[simp] theorem operandGap_busLog (rm : RM) : (s.operandGap rm).busLog = s.busLog := by
  cases rm <;> simp [State.operandGap]
@[simp] theorem operandGap_plat (rm : RM) : (s.operandGap rm).plat = s.plat := by
  cases rm <;> simp [State.operandGap]
@[simp] theorem operandGap_freeIx (rm : RM) : (s.operandGap rm).freeIx = s.freeIx := by
  cases rm <;> simp [State.operandGap]

/-! ### Entering and leaving an interrupt, pushing and popping a far return address -/

@[simp] theorem pushFrame_gpr (r : Word) : (s.pushFrame r).gpr = s.gpr.set .r100 (s.gpr.sp - 6) := by
  simp [State.pushFrame, Gpr.set]; bv_omega
@[simp] theorem pushFrame_sregs (r : Word) : (s.pushFrame r).sregs = s.sregs := by simp [State.pushFrame]
@[simp] theorem pushFrame_ip (r : Word) : (s.pushFrame r).ip = s.ip := by simp [State.pushFrame]
@[simp] theorem pushFrame_flags (r : Word) : (s.pushFrame r).flags = s.flags.masked := by simp [State.pushFrame]
@[simp] theorem pushFrame_nmiLatch (r : Word) : (s.pushFrame r).nmiLatch = s.nmiLatch := by simp [State.pushFrame]
@[simp] theorem pushFrame_delay (r : Word) : (s.pushFrame r).delay = s.delay := by simp [State.pushFrame]
@[simp] theorem pushFrame_halted (r : Word) : (s.pushFrame r).halted = s.halted := by simp [State.pushFrame]
@[simp] theorem pushFrame_waiting (r : Word) : (s.pushFrame r).waiting = s.waiting := by simp [State.pushFrame]
@[simp] theorem pushFrame_pfx (r : Word) : (s.pushFrame r).pfx = s.pfx := by simp [State.pushFrame]
@[simp] theorem pushFrame_running (r : Word) : (s.pushFrame r).running = s.running := by simp [State.pushFrame]
@[simp] theorem pushFrame_start (r : Word) : (s.pushFrame r).start = s.start := by simp [State.pushFrame]
@[simp] theorem pushFrame_afterWait (r : Word) : (s.pushFrame r).afterWait = s.afterWait := by simp [State.pushFrame]
@[simp] theorem pushFrame_entered (r : Word) : (s.pushFrame r).entered = s.entered := by simp [State.pushFrame]
@[simp] theorem pushFrame_pins (r : Word) : (s.pushFrame r).pins = s.pins := by simp [State.pushFrame]
@[simp] theorem pushFrame_inputs (r : Word) : (s.pushFrame r).inputs = s.inputs := by simp [State.pushFrame]
@[simp] theorem pushFrame_ports (r : Word) : (s.pushFrame r).ports = s.ports := by simp [State.pushFrame]
@[simp] theorem pushFrame_plat (r : Word) : (s.pushFrame r).plat = s.plat := by simp [State.pushFrame]
@[simp] theorem pushFrame_freeIx (r : Word) : (s.pushFrame r).freeIx = s.freeIx := by simp [State.pushFrame]
@[simp] theorem throughPointer_gpr (t : Byte) : (s.throughPointer t).gpr = s.gpr := by simp [State.throughPointer]
@[simp] theorem throughPointer_flags (t : Byte) : (s.throughPointer t).flags = s.flags := by simp [State.throughPointer]
@[simp] theorem throughPointer_nmiLatch (t : Byte) :
    (s.throughPointer t).nmiLatch = s.nmiLatch := by simp [State.throughPointer]
@[simp] theorem throughPointer_delay (t : Byte) : (s.throughPointer t).delay = s.delay := by simp [State.throughPointer]
@[simp] theorem throughPointer_halted (t : Byte) :
    (s.throughPointer t).halted = s.halted := by simp [State.throughPointer]
@[simp] theorem throughPointer_waiting (t : Byte) :
    (s.throughPointer t).waiting = s.waiting := by simp [State.throughPointer]
@[simp] theorem throughPointer_pfx (t : Byte) : (s.throughPointer t).pfx = s.pfx := by simp [State.throughPointer]
@[simp] theorem throughPointer_running (t : Byte) :
    (s.throughPointer t).running = s.running := by simp [State.throughPointer]
@[simp] theorem throughPointer_start (t : Byte) : (s.throughPointer t).start = s.start := by simp [State.throughPointer]
@[simp] theorem throughPointer_afterWait (t : Byte) :
    (s.throughPointer t).afterWait = s.afterWait := by simp [State.throughPointer]
@[simp] theorem throughPointer_entered (t : Byte) :
    (s.throughPointer t).entered = s.entered := by simp [State.throughPointer]
@[simp] theorem throughPointer_pins (t : Byte) : (s.throughPointer t).pins = s.pins := by simp [State.throughPointer]
@[simp] theorem throughPointer_inputs (t : Byte) :
    (s.throughPointer t).inputs = s.inputs := by simp [State.throughPointer]
@[simp] theorem throughPointer_ports (t : Byte) : (s.throughPointer t).ports = s.ports := by simp [State.throughPointer]
@[simp] theorem throughPointer_busLog (t : Byte) :
    (s.throughPointer t).busLog = s.busLog := by simp [State.throughPointer]
@[simp] theorem throughPointer_plat (t : Byte) : (s.throughPointer t).plat = s.plat := by simp [State.throughPointer]
@[simp] theorem throughPointer_freeIx (t : Byte) :
    (s.throughPointer t).freeIx = s.freeIx := by simp [State.throughPointer]
@[simp] theorem throughPointer_stale (t : Byte) : (s.throughPointer t).stale = [] := rfl
@[simp] theorem pushReturn_sregs : s.pushReturn.sregs = s.sregs := by simp [State.pushReturn]
@[simp] theorem pushReturn_ip : s.pushReturn.ip = s.ip := by simp [State.pushReturn]
@[simp] theorem pushReturn_flags : s.pushReturn.flags = s.flags := by simp [State.pushReturn]
@[simp] theorem pushReturn_nmiLatch : s.pushReturn.nmiLatch = s.nmiLatch := by simp [State.pushReturn]
@[simp] theorem pushReturn_delay : s.pushReturn.delay = s.delay := by simp [State.pushReturn]
@[simp] theorem pushReturn_halted : s.pushReturn.halted = s.halted := by simp [State.pushReturn]
@[simp] theorem pushReturn_waiting : s.pushReturn.waiting = s.waiting := by simp [State.pushReturn]
@[simp] theorem pushReturn_pfx : s.pushReturn.pfx = s.pfx := by simp [State.pushReturn]
@[simp] theorem pushReturn_running : s.pushReturn.running = s.running := by simp [State.pushReturn]
@[simp] theorem pushReturn_start : s.pushReturn.start = s.start := by simp [State.pushReturn]
@[simp] theorem pushReturn_afterWait : s.pushReturn.afterWait = s.afterWait := by simp [State.pushReturn]
@[simp] theorem pushReturn_entered : s.pushReturn.entered = s.entered := by simp [State.pushReturn]
@[simp] theorem pushReturn_pins : s.pushReturn.pins = s.pins := by simp [State.pushReturn]
@[simp] theorem pushReturn_inputs : s.pushReturn.inputs = s.inputs := by simp [State.pushReturn]
@[simp] theorem pushReturn_ports : s.pushReturn.ports = s.ports := by simp [State.pushReturn]
@[simp] theorem pushReturn_plat : s.pushReturn.plat = s.plat := by simp [State.pushReturn]
@[simp] theorem pushReturn_freeIx : s.pushReturn.freeIx = s.freeIx := by simp [State.pushReturn]
@[simp] theorem popFar_flags : s.popFar.flags = s.flags := by simp [State.popFar]
@[simp] theorem popFar_nmiLatch : s.popFar.nmiLatch = s.nmiLatch := by simp [State.popFar]
@[simp] theorem popFar_delay : s.popFar.delay = s.delay := by simp [State.popFar]
@[simp] theorem popFar_halted : s.popFar.halted = s.halted := by simp [State.popFar]
@[simp] theorem popFar_waiting : s.popFar.waiting = s.waiting := by simp [State.popFar]
@[simp] theorem popFar_pfx : s.popFar.pfx = s.pfx := by simp [State.popFar]
@[simp] theorem popFar_running : s.popFar.running = s.running := by simp [State.popFar]
@[simp] theorem popFar_start : s.popFar.start = s.start := by simp [State.popFar]
@[simp] theorem popFar_afterWait : s.popFar.afterWait = s.afterWait := by simp [State.popFar]
@[simp] theorem popFar_entered : s.popFar.entered = s.entered := by simp [State.popFar]
@[simp] theorem popFar_pins : s.popFar.pins = s.pins := by simp [State.popFar]
@[simp] theorem popFar_inputs : s.popFar.inputs = s.inputs := by simp [State.popFar]
@[simp] theorem popFar_ports : s.popFar.ports = s.ports := by simp [State.popFar]
@[simp] theorem popFar_busLog : s.popFar.busLog = s.busLog := by simp [State.popFar]
@[simp] theorem popFar_plat : s.popFar.plat = s.plat := by simp [State.popFar]
@[simp] theorem popFar_freeIx : s.popFar.freeIx = s.freeIx := by simp [State.popFar]
@[simp] theorem returnFromInterrupt_nmiLatch :
    s.returnFromInterrupt.nmiLatch = s.nmiLatch := by simp [State.returnFromInterrupt]
@[simp] theorem returnFromInterrupt_delay : s.returnFromInterrupt.delay = s.delay := by simp [State.returnFromInterrupt]
@[simp] theorem returnFromInterrupt_halted :
    s.returnFromInterrupt.halted = s.halted := by simp [State.returnFromInterrupt]
@[simp] theorem returnFromInterrupt_waiting :
    s.returnFromInterrupt.waiting = s.waiting := by simp [State.returnFromInterrupt]
@[simp] theorem returnFromInterrupt_pfx : s.returnFromInterrupt.pfx = s.pfx := by simp [State.returnFromInterrupt]
@[simp] theorem returnFromInterrupt_running :
    s.returnFromInterrupt.running = s.running := by simp [State.returnFromInterrupt]
@[simp] theorem returnFromInterrupt_start : s.returnFromInterrupt.start = s.start := by simp [State.returnFromInterrupt]
@[simp] theorem returnFromInterrupt_afterWait :
    s.returnFromInterrupt.afterWait = s.afterWait := by simp [State.returnFromInterrupt]
@[simp] theorem returnFromInterrupt_entered :
    s.returnFromInterrupt.entered = s.entered := by simp [State.returnFromInterrupt]
@[simp] theorem returnFromInterrupt_pins : s.returnFromInterrupt.pins = s.pins := by simp [State.returnFromInterrupt]
@[simp] theorem returnFromInterrupt_inputs :
    s.returnFromInterrupt.inputs = s.inputs := by simp [State.returnFromInterrupt]
@[simp] theorem returnFromInterrupt_ports : s.returnFromInterrupt.ports = s.ports := by simp [State.returnFromInterrupt]
@[simp] theorem returnFromInterrupt_busLog :
    s.returnFromInterrupt.busLog = s.busLog := by simp [State.returnFromInterrupt]
@[simp] theorem returnFromInterrupt_plat : s.returnFromInterrupt.plat = s.plat := by simp [State.returnFromInterrupt]
@[simp] theorem returnFromInterrupt_freeIx :
    s.returnFromInterrupt.freeIx = s.freeIx := by simp [State.returnFromInterrupt]

/-! ### Values the spec leaves open -/

@[simp] theorem freeQuotient_sregs (w : Width) : (s.freeQuotient w).sregs = s.sregs := by cases w <;> rfl
@[simp] theorem freeQuotient_ip (w : Width) : (s.freeQuotient w).ip = s.ip := by cases w <;> rfl
@[simp] theorem freeQuotient_mem (w : Width) : (s.freeQuotient w).mem = s.mem := by cases w <;> rfl
@[simp] theorem freeQuotient_stale (w : Width) : (s.freeQuotient w).stale = s.stale := by cases w <;> rfl
@[simp] theorem freeQuotient_nmiLatch (w : Width) : (s.freeQuotient w).nmiLatch = s.nmiLatch := by cases w <;> rfl
@[simp] theorem freeQuotient_delay (w : Width) : (s.freeQuotient w).delay = s.delay := by cases w <;> rfl
@[simp] theorem freeQuotient_halted (w : Width) : (s.freeQuotient w).halted = s.halted := by cases w <;> rfl
@[simp] theorem freeQuotient_waiting (w : Width) : (s.freeQuotient w).waiting = s.waiting := by cases w <;> rfl
@[simp] theorem freeQuotient_pfx (w : Width) : (s.freeQuotient w).pfx = s.pfx := by cases w <;> rfl
@[simp] theorem freeQuotient_running (w : Width) : (s.freeQuotient w).running = s.running := by cases w <;> rfl
@[simp] theorem freeQuotient_start (w : Width) : (s.freeQuotient w).start = s.start := by cases w <;> rfl
@[simp] theorem freeQuotient_afterWait (w : Width) : (s.freeQuotient w).afterWait = s.afterWait := by cases w <;> rfl
@[simp] theorem freeQuotient_entered (w : Width) : (s.freeQuotient w).entered = s.entered := by cases w <;> rfl
@[simp] theorem freeQuotient_pins (w : Width) : (s.freeQuotient w).pins = s.pins := by cases w <;> rfl
@[simp] theorem freeQuotient_inputs (w : Width) : (s.freeQuotient w).inputs = s.inputs := by cases w <;> rfl
@[simp] theorem freeQuotient_busQueue (w : Width) : (s.freeQuotient w).busQueue = s.busQueue := by cases w <;> rfl
@[simp] theorem freeQuotient_ports (w : Width) : (s.freeQuotient w).ports = s.ports := by cases w <;> rfl
@[simp] theorem freeQuotient_busLog (w : Width) : (s.freeQuotient w).busLog = s.busLog := by cases w <;> rfl
@[simp] theorem freeQuotient_plat (w : Width) : (s.freeQuotient w).plat = s.plat := by cases w <;> rfl

/-! ### Shift by 0 -/

@[simp] theorem shiftByZero_sregs (w : Width) (rm : RM) : (s.shiftByZero w rm).sregs = s.sregs := by
  unfold State.shiftByZero; (repeat' split) <;> simp
@[simp] theorem shiftByZero_ip (w : Width) (rm : RM) : (s.shiftByZero w rm).ip = s.ip := by
  unfold State.shiftByZero; (repeat' split) <;> simp
@[simp] theorem shiftByZero_flags (w : Width) (rm : RM) : (s.shiftByZero w rm).flags = s.flags := by
  unfold State.shiftByZero; (repeat' split) <;> simp
@[simp] theorem shiftByZero_nmiLatch (w : Width) (rm : RM) : (s.shiftByZero w rm).nmiLatch = s.nmiLatch := by
  unfold State.shiftByZero; (repeat' split) <;> simp
@[simp] theorem shiftByZero_delay (w : Width) (rm : RM) : (s.shiftByZero w rm).delay = s.delay := by
  unfold State.shiftByZero; (repeat' split) <;> simp
@[simp] theorem shiftByZero_halted (w : Width) (rm : RM) : (s.shiftByZero w rm).halted = s.halted := by
  unfold State.shiftByZero; (repeat' split) <;> simp
@[simp] theorem shiftByZero_waiting (w : Width) (rm : RM) : (s.shiftByZero w rm).waiting = s.waiting := by
  unfold State.shiftByZero; (repeat' split) <;> simp
@[simp] theorem shiftByZero_pfx (w : Width) (rm : RM) : (s.shiftByZero w rm).pfx = s.pfx := by
  unfold State.shiftByZero; (repeat' split) <;> simp
@[simp] theorem shiftByZero_running (w : Width) (rm : RM) : (s.shiftByZero w rm).running = s.running := by
  unfold State.shiftByZero; (repeat' split) <;> simp
@[simp] theorem shiftByZero_start (w : Width) (rm : RM) : (s.shiftByZero w rm).start = s.start := by
  unfold State.shiftByZero; (repeat' split) <;> simp
@[simp] theorem shiftByZero_afterWait (w : Width) (rm : RM) : (s.shiftByZero w rm).afterWait = s.afterWait := by
  unfold State.shiftByZero; (repeat' split) <;> simp
@[simp] theorem shiftByZero_entered (w : Width) (rm : RM) : (s.shiftByZero w rm).entered = s.entered := by
  unfold State.shiftByZero; (repeat' split) <;> simp
@[simp] theorem shiftByZero_pins (w : Width) (rm : RM) : (s.shiftByZero w rm).pins = s.pins := by
  unfold State.shiftByZero; (repeat' split) <;> simp
@[simp] theorem shiftByZero_inputs (w : Width) (rm : RM) : (s.shiftByZero w rm).inputs = s.inputs := by
  unfold State.shiftByZero; (repeat' split) <;> simp
@[simp] theorem shiftByZero_ports (w : Width) (rm : RM) : (s.shiftByZero w rm).ports = s.ports := by
  unfold State.shiftByZero; (repeat' split) <;> simp
@[simp] theorem shiftByZero_plat (w : Width) (rm : RM) : (s.shiftByZero w rm).plat = s.plat := by
  unfold State.shiftByZero; (repeat' split) <;> simp

/-! ### Taking bytes of the instruction stream -/

@[simp] theorem takeBytes_gpr (n : Nat) : (s.takeBytes n).gpr = s.gpr := by
  induction n generalizing s with
  | zero => rfl
  | succ n ih => simp [State.takeBytes, ih]
@[simp] theorem takeBytes_sregs (n : Nat) : (s.takeBytes n).sregs = s.sregs := by
  induction n generalizing s with
  | zero => rfl
  | succ n ih => simp [State.takeBytes, ih]
@[simp] theorem takeBytes_flags (n : Nat) : (s.takeBytes n).flags = s.flags := by
  induction n generalizing s with
  | zero => rfl
  | succ n ih => simp [State.takeBytes, ih]
@[simp] theorem takeBytes_mem (n : Nat) : (s.takeBytes n).mem = s.mem := by
  induction n generalizing s with
  | zero => rfl
  | succ n ih => simp [State.takeBytes, ih]
@[simp] theorem takeBytes_nmiLatch (n : Nat) : (s.takeBytes n).nmiLatch = s.nmiLatch := by
  induction n generalizing s with
  | zero => rfl
  | succ n ih => simp [State.takeBytes, ih]
@[simp] theorem takeBytes_delay (n : Nat) : (s.takeBytes n).delay = s.delay := by
  induction n generalizing s with
  | zero => rfl
  | succ n ih => simp [State.takeBytes, ih]
@[simp] theorem takeBytes_halted (n : Nat) : (s.takeBytes n).halted = s.halted := by
  induction n generalizing s with
  | zero => rfl
  | succ n ih => simp [State.takeBytes, ih]
@[simp] theorem takeBytes_waiting (n : Nat) : (s.takeBytes n).waiting = s.waiting := by
  induction n generalizing s with
  | zero => rfl
  | succ n ih => simp [State.takeBytes, ih]
@[simp] theorem takeBytes_pfx (n : Nat) : (s.takeBytes n).pfx = s.pfx := by
  induction n generalizing s with
  | zero => rfl
  | succ n ih => simp [State.takeBytes, ih]
@[simp] theorem takeBytes_running (n : Nat) : (s.takeBytes n).running = s.running := by
  induction n generalizing s with
  | zero => rfl
  | succ n ih => simp [State.takeBytes, ih]
@[simp] theorem takeBytes_start (n : Nat) : (s.takeBytes n).start = s.start := by
  induction n generalizing s with
  | zero => rfl
  | succ n ih => simp [State.takeBytes, ih]
@[simp] theorem takeBytes_afterWait (n : Nat) : (s.takeBytes n).afterWait = s.afterWait := by
  induction n generalizing s with
  | zero => rfl
  | succ n ih => simp [State.takeBytes, ih]
@[simp] theorem takeBytes_entered (n : Nat) : (s.takeBytes n).entered = s.entered := by
  induction n generalizing s with
  | zero => rfl
  | succ n ih => simp [State.takeBytes, ih]
@[simp] theorem takeBytes_pins (n : Nat) : (s.takeBytes n).pins = s.pins := by
  induction n generalizing s with
  | zero => rfl
  | succ n ih => simp [State.takeBytes, ih]
@[simp] theorem takeBytes_inputs (n : Nat) : (s.takeBytes n).inputs = s.inputs := by
  induction n generalizing s with
  | zero => rfl
  | succ n ih => simp [State.takeBytes, ih]
@[simp] theorem takeBytes_busQueue (n : Nat) : (s.takeBytes n).busQueue = s.busQueue := by
  induction n generalizing s with
  | zero => rfl
  | succ n ih => simp [State.takeBytes, ih]
@[simp] theorem takeBytes_ports (n : Nat) : (s.takeBytes n).ports = s.ports := by
  induction n generalizing s with
  | zero => rfl
  | succ n ih => simp [State.takeBytes, ih]
@[simp] theorem takeBytes_busLog (n : Nat) : (s.takeBytes n).busLog = s.busLog := by
  induction n generalizing s with
  | zero => rfl
  | succ n ih => simp [State.takeBytes, ih]
@[simp] theorem takeBytes_plat (n : Nat) : (s.takeBytes n).plat = s.plat := by
  induction n generalizing s with
  | zero => rfl
  | succ n ih => simp [State.takeBytes, ih]
@[simp] theorem takeBytes_freeIx (n : Nat) : (s.takeBytes n).freeIx = s.freeIx := by
  induction n generalizing s with
  | zero => rfl
  | succ n ih => simp [State.takeBytes, ih]
@[simp] theorem fetched_gpr (n : Nat) : (s.fetched n).gpr = s.gpr := by simp [State.fetched]
@[simp] theorem fetched_sregs (n : Nat) : (s.fetched n).sregs = s.sregs := by simp [State.fetched]
@[simp] theorem fetched_flags (n : Nat) : (s.fetched n).flags = s.flags := by simp [State.fetched]
@[simp] theorem fetched_nmiLatch (n : Nat) : (s.fetched n).nmiLatch = s.nmiLatch := by simp [State.fetched]
@[simp] theorem fetched_delay (n : Nat) : (s.fetched n).delay = s.delay := by simp [State.fetched]
@[simp] theorem fetched_halted (n : Nat) : (s.fetched n).halted = s.halted := by simp [State.fetched]
@[simp] theorem fetched_waiting (n : Nat) : (s.fetched n).waiting = s.waiting := by simp [State.fetched]
@[simp] theorem fetched_pfx (n : Nat) : (s.fetched n).pfx = s.pfx := by simp [State.fetched]
@[simp] theorem fetched_running (n : Nat) : (s.fetched n).running = s.running := by simp [State.fetched]
@[simp] theorem fetched_afterWait (n : Nat) : (s.fetched n).afterWait = s.afterWait := by simp [State.fetched]
@[simp] theorem fetched_entered (n : Nat) : (s.fetched n).entered = s.entered := by simp [State.fetched]
@[simp] theorem fetched_pins (n : Nat) : (s.fetched n).pins = s.pins := by simp [State.fetched]
@[simp] theorem fetched_inputs (n : Nat) : (s.fetched n).inputs = s.inputs := by simp [State.fetched]
@[simp] theorem fetched_ports (n : Nat) : (s.fetched n).ports = s.ports := by simp [State.fetched]
@[simp] theorem fetched_busLog (n : Nat) : (s.fetched n).busLog = s.busLog := by simp [State.fetched]
@[simp] theorem fetched_plat (n : Nat) : (s.fetched n).plat = s.plat := by simp [State.fetched]

end Sys2Proof.Machine
end

