-- ==== Sys2Proof/Laws/Memory.lean ====
section
/-! SUPPORT. Laws/Memory.lean: reading after writing, for any list; every memory operation keeps the canonical form. -/

namespace Sys2Proof.Machine
open Sys2Proof

/-! ### Reading after writing -/

theorem memRead_memErase (m : Memory) (a x : Nat) :
    memRead (memErase m a) x = if x = a then memDefault else memRead m x := by
  induction m with
  | nil => simp [memErase, memRead]
  | cons c rest ih => grind [memErase, memRead]

theorem memRead_memInsert (m : Memory) (a x : Nat) (b : Byte) (h : ∀ c ∈ m, c.1 ≠ a) :
    memRead (memInsert m a b) x = if x = a then b else memRead m x := by
  induction m with
  | nil => grind [memInsert, memRead]
  | cons c rest ih => grind [memInsert, memRead]

theorem not_mem_memErase (m : Memory) (a : Nat) : ∀ c ∈ memErase m a, c.1 ≠ a := by
  induction m with
  | nil => simp [memErase]
  | cons c rest ih => grind [memErase]

/-- A byte written is read back, and every other address reads as before. -/
theorem memRead_memWrite (m : Memory) (a x : Nat) (b : Byte) :
    memRead (memWrite m a b) x = if x = a then b else memRead m x := by
  unfold memWrite
  split
  · next h => rw [memRead_memErase, h]
  · rw [memRead_memInsert _ _ _ _ (not_mem_memErase m a), memRead_memErase]
    split <;> rfl

@[simp] theorem memRead_memWrite_same (m : Memory) (a : Nat) (b : Byte) : memRead (memWrite m a b) a = b := by
  simp [memRead_memWrite]

theorem memRead_memWrite_ne (m : Memory) (a x : Nat) (b : Byte) (h : x ≠ a) :
    memRead (memWrite m a b) x = memRead m x := by
  simp [memRead_memWrite, h]

/-! ### The canonical form -/

theorem wfFrom_mono (m : Memory) (lo hi : Nat) (h : lo ≤ hi) (w : Memory.wfFrom hi m = true) :
    Memory.wfFrom lo m = true := by
  cases m with
  | nil => rfl
  | cons c rest => simp only [Memory.wfFrom, Bool.and_eq_true, decide_eq_true_eq] at *; grind

theorem wfFrom_memErase (m : Memory) (lo a : Nat) (w : Memory.wfFrom lo m = true) :
    Memory.wfFrom lo (memErase m a) = true := by
  induction m generalizing lo with
  | nil => rfl
  | cons c rest ih =>
    simp only [Memory.wfFrom, Bool.and_eq_true, decide_eq_true_eq] at w
    unfold memErase
    split
    · exact wfFrom_mono _ _ _ (by omega) (ih _ w.2)
    · simp only [Memory.wfFrom, Bool.and_eq_true, decide_eq_true_eq]; exact ⟨w.1, ih _ w.2⟩

theorem wfFrom_memInsert (m : Memory) (lo a : Nat) (b : Byte) (hl : lo ≤ a) (ha : a < 2 ^ 20) (hb : b ≠ memDefault)
    (hn : ∀ c ∈ m, c.1 ≠ a) (w : Memory.wfFrom lo m = true) : Memory.wfFrom lo (memInsert m a b) = true := by
  induction m generalizing lo with
  | nil => simp only [memInsert, Memory.wfFrom, Bool.and_eq_true, decide_eq_true_eq, bne_iff_ne]; exact ⟨⟨⟨hl, ha⟩, hb⟩, trivial⟩
  | cons c rest ih =>
    simp only [Memory.wfFrom, Bool.and_eq_true, decide_eq_true_eq] at w
    have hc : c.1 ≠ a := hn c (by simp)
    unfold memInsert
    split
    · simp only [Memory.wfFrom, Bool.and_eq_true, decide_eq_true_eq]
      exact ⟨w.1, ih _ (by omega) (fun x hx => hn x (by simp [hx])) w.2⟩
    · simp only [Memory.wfFrom, Bool.and_eq_true, decide_eq_true_eq, bne_iff_ne] at *
      exact ⟨⟨⟨hl, ha⟩, hb⟩, ⟨⟨⟨by omega, w.1.1.2⟩, w.1.2⟩, w.2⟩⟩

/-- Writing a byte at an address of the space keeps the canonical form. -/
theorem wf_memWrite (m : Memory) (a : PAddr) (b : Byte) (w : Memory.wf m = true) :
    Memory.wf (memWrite m a.toNat b) = true := by
  unfold Memory.wf at *
  unfold memWrite
  split
  · exact wfFrom_memErase _ _ _ w
  · next h =>
    exact wfFrom_memInsert _ _ _ _ (Nat.zero_le _) a.isLt h (not_mem_memErase m _) (wfFrom_memErase _ _ _ w)

/-- In canonical form from an address on, every address below it reads as unlisted. -/
theorem wf_memRead_below (m : Memory) (lo a : Nat) (h : a < lo) (w : Memory.wfFrom lo m = true) :
    memRead m a = memDefault := by
  induction m generalizing lo with
  | nil => rfl
  | cons c rest ih =>
    simp only [Memory.wfFrom, Bool.and_eq_true, decide_eq_true_eq] at w
    rw [memRead, if_neg (by omega)]
    exact ih (c.1 + 1) (by omega) w.2

/-! ### Writes on the bus -/

/-- All a bus write does to memory: RAM takes the byte. -/
theorem busWrite_mem (s : State) (a : PAddr) (b : Byte) :
    (s.busWrite a b).mem = if s.kindOf a = .ram then memWrite s.mem a.toNat b else s.mem := by
  unfold State.busWrite
  split <;> simp_all

/-- Every address after a bus write: the written one reads the byte where it is RAM. -/
theorem memRead_busWrite (s : State) (a : PAddr) (b : Byte) (x : Nat) :
    memRead (s.busWrite a b).mem x = if x = a.toNat ∧ s.kindOf a = .ram then b else memRead s.mem x := by
  rw [busWrite_mem]
  split
  · next h => rw [memRead_memWrite]; simp [h]
  · next h => simp [h]

theorem wf_busWrite (s : State) (a : PAddr) (b : Byte) (w : Memory.wf s.mem = true) :
    Memory.wf (s.busWrite a b).mem = true := by
  rw [busWrite_mem]
  split
  · exact wf_memWrite _ _ _ w
  · exact w

@[simp] theorem busWrite_kindOf (s : State) (a x : PAddr) (b : Byte) : (s.busWrite a b).kindOf x = s.kindOf x := by
  simp [State.kindOf]

/-- Every address after a byte write at a segment and offset. -/
theorem memRead_write8 (s : State) (g o : Word) (b : Byte) (x : Nat) :
    memRead (s.write8 g o b).mem x =
      if x = (phys g o).toNat ∧ s.kindOf (phys g o) = .ram then b else memRead s.mem x := memRead_busWrite _ _ _ _

/-- Every address after a word write at a segment and offset. -/
theorem memRead_write16 (s : State) (g o v : Word) (x : Nat) :
    memRead (s.write16 g o v).mem x =
      if x = (phys g (o + 1)).toNat ∧ s.kindOf (phys g (o + 1)) = .ram then highByte v
      else if x = (phys g o).toNat ∧ s.kindOf (phys g o) = .ram then lowByte v else memRead s.mem x := by
  simp [State.write16, memRead_busWrite]

theorem wf_write8 (s : State) (g o : Word) (b : Byte) (w : Memory.wf s.mem = true) :
    Memory.wf (s.write8 g o b).mem = true := wf_busWrite _ _ _ w

theorem wf_write16 (s : State) (g o v : Word) (w : Memory.wf s.mem = true) :
    Memory.wf (s.write16 g o v).mem = true := wf_busWrite _ _ _ (wf_busWrite _ _ _ w)

theorem wf_writeW (s : State) (w : Width) (g o : Word) (v : BitVec w.bits) (h : Memory.wf s.mem = true) :
    Memory.wf (s.writeW w g o v).mem = true := by
  cases w
  · exact wf_write8 _ _ _ _ h
  · exact wf_write16 _ _ _ _ h

theorem wf_push16 (s : State) (v : Word) (w : Memory.wf s.mem = true) : Memory.wf (s.push16 v).mem = true :=
  wf_write16 _ _ _ _ w

theorem wf_rmWrite (s : State) (w : Width) (rm : RM) (v : BitVec w.bits) (h : Memory.wf s.mem = true) :
    Memory.wf (s.rmWrite w rm v).mem = true := by
  cases rm
  · exact h
  · exact wf_writeW _ _ _ _ _ h

/-- The two addresses of a word are never the same (R69). -/
theorem phys_succ_ne (g o : Word) : phys g (o + 1) ≠ phys g o := by
  unfold phys
  intro h
  have h2 := congrArg BitVec.toNat h
  simp [BitVec.toNat_add, BitVec.toNat_shiftLeft] at h2
  omega

/-! ### The rest of the machine's memory operations keep the canonical form -/

theorem wf_masterWrite (s : State) (a : PAddr) (b : Byte) (w : Memory.wf s.mem = true) :
    Memory.wf (s.masterWrite a b).mem = true := by
  unfold State.masterWrite
  split
  · exact wf_memWrite _ _ _ w
  · exact w
  · exact w
  · exact w

theorem wf_masterWrites (l : List (PAddr × Byte)) (s : State) (w : Memory.wf s.mem = true) :
    Memory.wf (s.masterWrites l).mem = true := by
  induction l generalizing s with
  | nil => exact w
  | cons c rest ih => exact ih _ (wf_masterWrite _ _ _ w)

/-- All a gap between two transfers can do (R80, R82): nothing, or the first entry other masters have waiting. -/
theorem yieldBus_cases (s : State) :
    (s.yieldBus = s ∧ (s.busLocked = true ∨ s.busQueue = [])) ∨
      ∃ now later, s.busLocked = false ∧ s.busQueue = now :: later ∧
        s.yieldBus = { (s.masterWrites now) with busQueue := later } := by
  unfold State.yieldBus
  cases hl : s.busLocked with
  | true => exact .inl ⟨rfl, .inl rfl⟩
  | false =>
    cases hq : s.busQueue with
    | nil => exact .inl ⟨rfl, .inr rfl⟩
    | cons now later => exact .inr ⟨now, later, rfl, rfl, rfl⟩

/-- Where no other master has anything to write, a gap does nothing. -/
theorem yieldBus_quiet {s : State} (h : s.busQueue = []) : s.yieldBus = s := by
  unfold State.yieldBus; rw [h]; exact ite_self s

/-- A locked instruction has no gaps (R82). -/
theorem yieldBus_locked {s : State} (h : s.busLocked = true) : s.yieldBus = s := by
  unfold State.yieldBus; rw [if_pos h]

theorem operandGap_quiet {s : State} (rm : RM) (h : s.busQueue = []) : s.operandGap rm = s := by
  cases rm
  · rfl
  · exact yieldBus_quiet h

theorem wf_yieldBus (s : State) (w : Memory.wf s.mem = true) : Memory.wf s.yieldBus.mem = true := by
  rcases yieldBus_cases s with ⟨h, -⟩ | ⟨now, later, -, -, h⟩
  · rw [h]; exact w
  · rw [h]; exact wf_masterWrites _ _ w

theorem wf_operandGap (s : State) (rm : RM) (w : Memory.wf s.mem = true) : Memory.wf (s.operandGap rm).mem = true := by
  cases rm
  · exact w
  · exact wf_yieldBus _ w

theorem wf_shiftByZero (s : State) (w : Width) (rm : RM) (h : Memory.wf s.mem = true) :
    Memory.wf (s.shiftByZero w rm).mem = true := by
  cases rm with
  | reg r => exact h
  | mem m =>
    unfold State.shiftByZero
    dsimp only
    split
    · exact wf_rmWrite _ _ _ _ (wf_yieldBus _ h)
    · exact h

theorem wf_pushFrame (s : State) (ret : Word) (w : Memory.wf s.mem = true) : Memory.wf (s.pushFrame ret).mem = true :=
  wf_push16 _ _ (wf_yieldBus _ (wf_push16 _ _ (wf_yieldBus _ (wf_push16 _ _ (wf_yieldBus _ w)))))

theorem wf_throughPointer (s : State) (t : Byte) (w : Memory.wf s.mem = true) :
    Memory.wf (s.throughPointer t).mem = true := wf_yieldBus _ (wf_yieldBus _ w)

theorem wf_pushReturn (s : State) (w : Memory.wf s.mem = true) : Memory.wf s.pushReturn.mem = true :=
  wf_push16 _ _ (wf_yieldBus _ (wf_push16 _ _ w))

theorem wf_placeBytes (g : Word) (l : List Byte) (o : Word) (m : Memory) (w : Memory.wf m = true) :
    Memory.wf (placeBytes g o l m) = true := by
  induction l generalizing o m with
  | nil => exact w
  | cons b rest ih => exact ih _ _ (wf_memWrite _ _ _ w)

theorem wf_reset : Memory.wf State.reset.mem = true := rfl

end Sys2Proof.Machine
end

