-- ==== Sys2Proof/Laws/Ops.lean ====
section
/-! SUPPORT. Laws/Ops.lean: one lemma for each shared operation, which says everything it can answer, and small facts about
registers, words and addresses. -/

namespace Sys2Proof.Machine
open Sys2Proof

/-! ### Bytes and words -/

@[simp] theorem lowByte_wordOf (hi lo : Byte) : lowByte (wordOf hi lo) = lo := by
  unfold lowByte wordOf; ext i h
  rw [BitVec.getElem_extractLsb', BitVec.getLsbD_append]
  simp [h]

@[simp] theorem highByte_wordOf (hi lo : Byte) : highByte (wordOf hi lo) = hi := by
  unfold highByte wordOf; ext i h
  rw [BitVec.getElem_extractLsb', BitVec.getLsbD_append]
  simp [h]

@[simp] theorem wordOf_highByte_lowByte (v : Word) : wordOf (highByte v) (lowByte v) = v := by
  unfold highByte lowByte wordOf
  ext i h
  simp
  grind

theorem wordOf_inj {a b c d : Byte} : wordOf a b = wordOf c d ↔ a = c ∧ b = d := by
  constructor
  · intro h
    exact ⟨by simpa using congrArg highByte h, by simpa using congrArg lowByte h⟩
  · rintro ⟨rfl, rfl⟩; rfl

/-! ### Registers -/

@[simp] theorem gpr_get_set (g : Gpr) (r : RegCode) (v : Word) : (g.set r v).get r = v := by cases r <;> rfl

theorem gpr_get_set_ne (g : Gpr) (r x : RegCode) (v : Word) (h : x ≠ r) : (g.set r v).get x = g.get x := by
  cases r <;> cases x <;> first | rfl | exact absurd rfl h

@[simp] theorem gpr_getByte_setByte (g : Gpr) (r : RegCode) (b : Byte) : (g.setByte r b).getByte r = b := by
  cases r <;> simp [Gpr.setByte, Gpr.getByte]

theorem gpr_getByte_setByte_ne (g : Gpr) (r x : RegCode) (b : Byte) (h : x ≠ r) :
    (g.setByte r b).getByte x = g.getByte x := by
  cases r <;> cases x <;> first | exact absurd rfl h | simp [Gpr.setByte, Gpr.getByte]

@[simp] theorem gpr_getW_setW (g : Gpr) (w : Width) (r : RegCode) (v : BitVec w.bits) : (g.setW w r v).getW w r = v := by
  cases w
  · exact gpr_getByte_setByte _ _ _
  · exact gpr_get_set _ _ _

@[simp] theorem sregs_get_set (g : SegRegs) (r : SegReg) (v : Word) : (g.set r v).get r = v := by cases r <;> rfl

theorem sregs_get_set_ne (g : SegRegs) (r x : SegReg) (v : Word) (h : x ≠ r) : (g.set r v).get x = g.get x := by
  cases r <;> cases x <;> first | rfl | exact absurd rfl h

/-- Writing a byte register leaves SP, BP, SI, DI alone (R22). -/
theorem gpr_setByte_high (g : Gpr) (r : RegCode) (b : Byte) :
    (g.setByte r b).sp = g.sp ∧ (g.setByte r b).bp = g.bp ∧ (g.setByte r b).si = g.si ∧ (g.setByte r b).di = g.di := by
  cases r <;> exact ⟨rfl, rfl, rfl, rfl⟩

/-! ### FLAGS as a word -/

/-- A stored FLAGS word gives the nine flags back (R38, R435). -/
@[simp] theorem flags_ofWord_toWord (f : Flags) (image : Word) : Flags.ofWord (f.toWord image) = f := by
  rcases f with ⟨a, b, c, d, e, g, h, i, j⟩
  simp only [Flags.ofWord, Flags.toWord, flagBit, flagsXMask, BitVec.getLsbD_or, BitVec.getLsbD_and,
    BitVec.getLsbD_shiftLeft, BitVec.getLsbD_setWidth, BitVec.getLsbD_ofBool, Flags.mk.injEq]
  refine ⟨?_, ?_, ?_, ?_, ?_, ?_, ?_, ?_, ?_⟩ <;> simp

/-! ### What a result can be -/

/-- `andThen` answers next exactly when both parts do. -/
theorem andThen_next {o : Result} {k : State → Result} {t : State} :
    andThen o k = .next t ↔ ∃ s, o = .next s ∧ k s = .next t := by
  cases o <;> simp [andThen]

@[simp] theorem andThen_ok (s : State) (k : State → Result) : andThen (.next s) k = k s := rfl

@[simp] theorem andThen_refused (r : Refusal) (k : State → Result) : andThen (.refused r) k = .refused r := rfl

/-- The state after steps 1 to 7 of an interrupt sequence (R430). -/
def State.entered7 (s : State) (t : Byte) (ret : Word) : State := ((s.tick.pushFrame ret).throughPointer t).leaveIdle

/-- All `enter` can answer next. -/
theorem enter_next {t : Byte} {ret : Word} {s u : State} :
    enter t ret s = .next u ↔ s.frameOverlaps t = false ∧ s.entered7 t ret = u := by
  unfold enter State.entered7
  split
  · next h => simp [h]
  · next h => simp at h; simp [h]

/-- All a sequence can answer next (R416, R430): its own entry, on it one of type 2 exactly where an NMI is latched, and on
these one of type 1 exactly where a single step is due. -/
theorem sequence_next {t : Byte} {ret : Word} {temp : Bool} {s u : State} (h : sequence t ret temp s = .next u) :
    s.frameOverlaps t = false ∧ ∃ x,
      ((s.nmiLatch = false ∧ x = s.entered7 t ret) ∨
        (s.nmiLatch = true ∧ enter 2 (s.entered7 t ret).ip (s.entered7 t ret).clearNmi = .next x)) ∧
      ((temp = false ∧ u = x) ∨ (temp = true ∧ enter 1 x.ip x = .next u)) := by
  unfold sequence at h
  obtain ⟨s1, h1, h⟩ := andThen_next.1 h
  obtain ⟨ho, rfl⟩ := enter_next.1 h1
  have hn : (s.entered7 t ret).nmiLatch = s.nmiLatch := by simp [State.entered7]
  obtain ⟨x, hx, h⟩ := andThen_next.1 h
  rw [hn] at hx
  refine ⟨ho, x, ?_, ?_⟩
  · cases hl : s.nmiLatch
    · rw [hl] at hx
      exact .inl ⟨rfl, by simpa using hx.symm⟩
    · rw [hl] at hx
      exact .inr ⟨rfl, by simpa using hx⟩
  · cases temp
    · exact .inl ⟨rfl, by simpa using h.symm⟩
    · exact .inr ⟨rfl, h⟩

/-- Where no NMI is latched and no single step is due, a sequence is its own entry alone. -/
theorem sequence_plain {t : Byte} {ret : Word} {s : State} (hn : s.nmiLatch = false) (ho : s.frameOverlaps t = false) :
    sequence t ret false s = .next (s.entered7 t ret) := by
  have h1 : enter t ret s = .next (s.entered7 t ret) := enter_next.2 ⟨ho, rfl⟩
  have h2 : (s.entered7 t ret).nmiLatch = false := by simp [State.entered7, hn]
  simp [sequence, h1, h2]

/-- What every entry leaves: the idle states, the repetition and the prefixes are over. -/
theorem entered7_idle (s : State) (t : Byte) (ret : Word) :
    (s.entered7 t ret).halted = false ∧ (s.entered7 t ret).waiting = false ∧ (s.entered7 t ret).running = none ∧
      (s.entered7 t ret).pfx = Prefixes.none := ⟨rfl, rfl, rfl, rfl⟩

/-- IF and TF are clear after an entry, the other flags as before (R430 step 3). -/
theorem entered7_flags (s : State) (t : Byte) (ret : Word) : (s.entered7 t ret).flags = s.flags.masked := by
  simp [State.entered7]

/-- SP is 6 lower after an entry; no other general register changes (R431). -/
theorem entered7_gpr (s : State) (t : Byte) (ret : Word) : (s.entered7 t ret).gpr = s.gpr.set .r100 (s.gpr.sp - 6) := by
  simp [State.entered7]

/-- An entry keeps the canonical form. -/
theorem entered7_wf (s : State) (t : Byte) (ret : Word) (w : Memory.wf s.mem = true) :
    Memory.wf (s.entered7 t ret).mem = true := by
  simpa [State.entered7] using wf_throughPointer _ t (wf_pushFrame s.tick ret w)

/-- All a repeated string instruction can answer in one turn (R292). -/
theorem repeated_next (i : Instr) (c : Bool) (e : State → State) (s : State) :
    ∃ t, repeated i c e s = .next t ∧
      ((s.pfx.rep = none ∧ t = { (e s) with running := none }) ∨
        (s.pfx.rep ≠ none ∧ s.gpr.cx = 0 ∧ t = { s with running := none }) ∨
        (s.pfx.rep ≠ none ∧ s.gpr.cx ≠ 0 ∧
          (t = { ((e s).setReg .r001 (s.gpr.cx - 1)) with running := none } ∨
            (s.gpr.cx - 1 ≠ 0 ∧ t = { ((e s).setReg .r001 (s.gpr.cx - 1)) with running := some i })))) := by
  unfold repeated
  cases h : s.pfx.rep with
  | none => exact ⟨_, rfl, .inl ⟨rfl, rfl⟩⟩
  | some z =>
    simp only
    split
    · next hc => exact ⟨_, rfl, .inr (.inl ⟨by simp, hc, rfl⟩)⟩
    · next hc =>
      split
      · exact ⟨_, rfl, .inr (.inr ⟨by simp, hc, .inl rfl⟩)⟩
      · next hd =>
        refine ⟨_, rfl, .inr (.inr ⟨by simp, hc, .inr ⟨?_, rfl⟩⟩)⟩
        intro h0
        apply hd
        have hx : ((e s).setReg .r001 (s.gpr.cx - 1)).gpr.cx = 0 := h0
        rw [hx]; rfl

end Sys2Proof.Machine
end

