-- ==== Sys2Proof/Laws/Stores.lean ====
section
/-! SUPPORT. Laws/Stores.lean: what the storing operations do, in the terms of Safety.lean: one lemma for each says which
bytes it stores, what the queue's record does and what stays. -/

namespace Sys2Proof.Machine
open Sys2Proof

/-! ### Stores put together -/

/-- `storedBytes` looks at memory, the log and `MemMap` alone. -/
theorem storedBytes_congr {s s' t t' : State} {l : List (PAddr × Byte)} (h : s.storedBytes t l) (hm : s'.mem = s.mem)
    (hb : s'.busLog = s.busLog) (hp : s'.plat = s.plat) (tm : t'.mem = t.mem) (tb : t'.busLog = t.busLog) :
    s'.storedBytes t' l := by
  cases s; cases s'; cases t; cases t'
  simp only at hm hb hp tm tb
  subst hm hb hp tm tb
  exact h

theorem storedBytes_nil (s : State) : s.storedBytes s [] := by simp [State.storedBytes, State.readAfter]

theorem storedBytes_append {s t u : State} {l m : List (PAddr × Byte)} (h1 : s.storedBytes t l) (h2 : t.storedBytes u m)
    (hp : t.plat = s.plat) : s.storedBytes u (l ++ m) := by
  have hk : ∀ a, t.kindOf a = s.kindOf a := fun a => by simp [State.kindOf, hp]
  refine ⟨fun a => ?_, ?_⟩
  · rw [h2.1 a]
    unfold State.readAfter
    rw [List.foldl_append]
    simp only [hk]
    rw [h1.1 a, State.readAfter]
  · rw [h2.2, h1.2]
    simp only [hk, List.filterMap_append, List.append_assoc]

/-- A byte written on the bus is the one byte stored. -/
theorem storedBytes_busWrite (s : State) (a : PAddr) (b : Byte) : s.storedBytes (s.busWrite a b) [(a, b)] := by
  refine ⟨fun x => ?_, ?_⟩
  · simp [memRead_busWrite, State.readAfter]
  · unfold State.busWrite
    split <;> simp_all

theorem storedBytes_write8 (s : State) (g o : Word) (b : Byte) : s.storedBytes (s.write8 g o b) [(phys g o, b)] :=
  storedBytes_busWrite _ _ _

theorem storedBytes_write16 (s : State) (g o v : Word) : s.storedBytes (s.write16 g o v) (wordBytes g o v) :=
  storedBytes_append (storedBytes_busWrite _ _ _) (storedBytes_busWrite _ _ _) (by simp)

/-- SP moved and a word stored. -/
theorem storedBytes_push16 (s : State) (v : Word) :
    s.storedBytes (s.push16 v) (wordBytes s.sregs.ss (s.gpr.sp - 2) v) :=
  storedBytes_congr (storedBytes_write16 (s.setSp (s.gpr.sp - 2)) _ _ v) rfl rfl rfl rfl rfl

/-! ### The queue's record (R84) -/

/-- All a bus write does to the record. -/
theorem stale_busWrite (s : State) (a : PAddr) (b : Byte) :
    (s.busWrite a b).stale = if s.kindOf a = .ram ∧ s.mayBePrefetched a = true ∧ memRead s.mem a.toNat ≠ b then
      (a, memRead s.mem a.toNat) :: s.stale else s.stale := by
  unfold State.busWrite
  split <;> simp_all [State.ramWrite]

/-- A byte of RAM that may be prefetched and takes another value leaves its old value in the record. -/
theorem stale_ramWrite {s : State} {a : PAddr} {b : Byte} (h : s.mayBePrefetched a = true)
    (hb : memRead s.mem a.toNat ≠ b) : (s.ramWrite a b).stale = (a, memRead s.mem a.toNat) :: s.stale := by
  simp [State.ramWrite, h, hb]

@[simp] theorem queueStart_busWrite (s : State) (a : PAddr) (b : Byte) :
    (s.busWrite a b).queueStart = s.queueStart := by simp [State.queueStart]

@[simp] theorem mayBePrefetched_busWrite (s : State) (a x : PAddr) (b : Byte) :
    (s.busWrite a b).mayBePrefetched x = s.mayBePrefetched x := by
  simp [State.mayBePrefetched]

@[simp] theorem readAfter_nil (s : State) (a : Nat) : s.readAfter [] a = memRead s.mem a := rfl

/-- The record looks at `MemMap`, memory and the queue's five addresses alone. -/
theorem recordAfter_congr {s s' : State} (hk : ∀ a, s'.kindOf a = s.kindOf a)
    (hp : ∀ a, s'.mayBePrefetched a = s.mayBePrefetched a) (hm : ∀ a, memRead s'.mem a = memRead s.mem a)
    (l : List (PAddr × Byte)) (done record : List (PAddr × Byte)) :
    s'.recordAfter done record l = s.recordAfter done record l := by
  have hr : ∀ d a, s'.readAfter d a = s.readAfter d a := fun d a => by simp only [State.readAfter, hk, hm]
  induction l generalizing done record with
  | nil => rfl
  | cons c rest ih => simp only [State.recordAfter, hk, hp, hr, ih]

/-- `stored` looks at no register but CS, IP and those of WAIT, at no flag and no draw number. -/
theorem stored_congr {s s' t t' : State} {l : List (PAddr × Byte)} (h : s.stored t l) (hm : s'.mem = s.mem)
    (hb : s'.busLog = s.busLog) (hp : s'.plat = s.plat) (hl : s'.stale = s.stale) (hc : s'.sregs.cs = s.sregs.cs)
    (hq : s'.queueStart = s.queueStart) (tm : t'.mem = t.mem) (tb : t'.busLog = t.busLog) (tl : t'.stale = t.stale) :
    s'.stored t' l := by
  refine ⟨storedBytes_congr h.1 hm hb hp tm tb, ?_⟩
  rw [tl, h.2, hl]
  refine (recordAfter_congr (fun a => ?_) (fun a => ?_) (fun a => by rw [hm]) l [] s.stale).symm
  · simp [State.kindOf, hp]
  · simp [State.mayBePrefetched, hc, hq]

/-- All a byte write does. -/
theorem stored_busWrite (s : State) (a : PAddr) (b : Byte) : s.stored (s.busWrite a b) [(a, b)] :=
  ⟨storedBytes_busWrite s a b, stale_busWrite s a b⟩

/-- All a word write does. -/
theorem stored_write16 (s : State) (g o v : Word) : s.stored (s.write16 g o v) (wordBytes g o v) := by
  refine ⟨storedBytes_write16 s g o v, ?_⟩
  have h := (storedBytes_busWrite s (phys g o) (lowByte v)).1 (phys g (o + 1)).toNat
  rw [State.write16, stale_busWrite, stale_busWrite s, h]
  simp only [busWrite_kindOf, mayBePrefetched_busWrite, wordBytes, State.recordAfter, readAfter_nil, List.nil_append]
  grind

/-- All a write of the operand width does. -/
theorem stored_writeW (s : State) (w : Width) (g o : Word) (v : BitVec w.bits) :
    s.stored (s.writeW w g o v) (operandBytes w g o v) := by
  cases w
  · exact stored_busWrite s _ v
  · exact stored_write16 s g o v

/-! ### Pushing -/

theorem gpr_set_onlyWord (g : Gpr) (r : RegCode) (v : Word) : g.onlyWord (g.set r v) r v :=
  ⟨gpr_get_set g r v, fun _ h => gpr_get_set_ne g r _ v h⟩

theorem gpr_setByte_onlyByte (g : Gpr) (r : RegCode) (b : Byte) : g.onlyByte (g.setByte r b) r b :=
  ⟨gpr_getByte_setByte g r b, fun _ h => gpr_getByte_setByte_ne g r _ b h, gpr_setByte_high g r b⟩

theorem gpr_setW_onlyReg (g : Gpr) (w : Width) (r : RegCode) (v : BitVec w.bits) : g.onlyReg (g.setW w r v) w r v := by
  cases w
  · exact gpr_setByte_onlyByte g r v
  · exact gpr_set_onlyWord g r v

theorem sregs_set_only (g : SegRegs) (r : SegReg) (v : Word) : g.only (g.set r v) r v :=
  ⟨sregs_get_set g r v, fun _ h => sregs_get_set_ne g r _ v h⟩

/-- All `push16` does (R14). -/
theorem pushed_push16 (s : State) (v : Word) :
    s.pushed (s.push16 v) v ∧ (s.push16 v).flags = s.flags ∧ s.straight (s.push16 v) := by
  refine ⟨⟨?_, storedBytes_push16 s v, ?_⟩, by simp, ?_⟩
  · simpa using gpr_set_onlyWord s.gpr .r100 (s.gpr.sp - 2)
  · exact (stored_write16 (s.setSp (s.gpr.sp - 2)) s.sregs.ss (s.gpr.sp - 2) v).2
  · simp [State.straight, State.restSame]

/-! ### Writing an r/m operand (R110) -/

/-- All `rm_write` does: the operand alone, in a state whose flags have been set before or not. -/
theorem wroteRm_rmWrite (s : State) (w : Width) (rm : RM) (v : BitVec w.bits) : s.wroteRm (s.rmWrite w rm v) w rm v := by
  cases rm with
  | reg r => exact ⟨gpr_setW_onlyReg s.gpr w r v, fun _ => rfl, rfl, rfl⟩
  | mem m => exact ⟨writeW_gpr .., stored_writeW s w _ _ v⟩

/-- `wroteRm` looks at no flag and no draw number. -/
theorem wroteRm_congr {s s' t : State} {w : Width} {rm : RM} {v : BitVec w.bits} (h : s'.wroteRm t w rm v)
    (hg : s'.gpr = s.gpr) (hs : s'.sregs = s.sregs) (hi : s'.ip = s.ip) (hm : s'.mem = s.mem) (hl : s'.stale = s.stale)
    (hb : s'.busLog = s.busLog) (hx : s'.pfx = s.pfx) (hp : s'.plat = s.plat) (hw : s'.waiting = s.waiting)
    (ha : s'.afterWait = s.afterWait) : s.wroteRm t w rm v := by
  have hq : s.queueStart = s'.queueStart := by simp [State.queueStart, hi, hw, ha]
  cases rm with
  | reg r => exact ⟨hg ▸ h.1, fun a => by rw [h.2.1 a, hm], h.2.2.1.trans hb, h.2.2.2.trans hl⟩
  | mem m =>
    refine ⟨h.1.trans hg, ?_⟩
    have e1 : s.segEff m = s'.segEff m := by simp [State.segEff, State.segOr, hs, hx]
    have e2 : s.ea m = s'.ea m := by simp [State.ea, hg]
    rw [e1, e2]
    exact stored_congr h.2 hm.symm hb.symm hp.symm hl.symm (by rw [hs]) hq rfl rfl rfl

/-- All `rm_write` does after flags, a draw number or both have been set. -/
theorem wroteRm_flags (s : State) (f : Flags) (n : Nat) (w : Width) (rm : RM) (v : BitVec w.bits) :
    s.wroteRm (({ s with flags := f, freeIx := n } : State).rmWrite w rm v) w rm v ∧
      (({ s with flags := f, freeIx := n } : State).rmWrite w rm v).flags = f ∧
      s.straight (({ s with flags := f, freeIx := n } : State).rmWrite w rm v) :=
  ⟨wroteRm_congr (wroteRm_rmWrite _ w rm v) rfl rfl rfl rfl rfl rfl rfl rfl rfl rfl, by simp,
    by simp [State.straight, State.restSame]⟩

/-- Nothing but registers, memory and the queue's record is touched by `rm_write`. -/
theorem straight_rmWrite (s : State) (w : Width) (rm : RM) (v : BitVec w.bits) :
    (s.rmWrite w rm v).flags = s.flags ∧ s.straight (s.rmWrite w rm v) := by
  cases rm <;> simp [State.straight, State.restSame]

/-! ### The interrupt frame (R430, R431) -/

/-- Where other masters have nothing to write, the gaps of a frame do nothing. -/
theorem pushFrame_quiet {s : State} (ret : Word) (h : s.busQueue = []) :
    s.pushFrame ret =
      ((((s.push16 (s.flags.toWord s.plat.flagsImage)).setFlags s.flags.masked).push16 s.sregs.cs).push16 ret) := by
  unfold State.pushFrame
  rw [yieldBus_quiet h]
  have h1 : ((s.push16 (s.flags.toWord s.plat.flagsImage)).setFlags s.flags.masked).busQueue = [] := by simpa using h
  rw [yieldBus_quiet h1, yieldBus_quiet (by simpa using h)]

/-- The bytes of an interrupt frame. -/
theorem storedBytes_pushFrame {s : State} (ret : Word) (h : s.busQueue = []) :
    s.storedBytes (s.pushFrame ret) (s.frameBytes s.flags ret) := by
  rw [pushFrame_quiet ret h]
  have h1 := storedBytes_push16 s (s.flags.toWord s.plat.flagsImage)
  have h2 := storedBytes_push16 ((s.push16 (s.flags.toWord s.plat.flagsImage)).setFlags s.flags.masked) s.sregs.cs
  have h3 := storedBytes_push16
    (((s.push16 (s.flags.toWord s.plat.flagsImage)).setFlags s.flags.masked).push16 s.sregs.cs) ret
  have e2 : s.gpr.sp - 2 - 2 = s.gpr.sp - 4 := by bv_omega
  have e3 : s.gpr.sp - 2 - 2 - 2 = s.gpr.sp - 6 := by bv_omega
  simp only [push16_sregs, setFlags_sregs, push16_gpr, setFlags_gpr, Gpr.set] at h2 h3
  rw [e2] at h2
  rw [e3] at h3
  have h12 := storedBytes_append h1 (storedBytes_congr h2 rfl rfl rfl rfl rfl) (by simp)
  exact storedBytes_append h12 h3 (by simp)

/-- Bytes stored elsewhere leave an address as it was. -/
theorem readAfter_other (s : State) (l : List (PAddr × Byte)) (a : Nat) (h : ∀ c ∈ l, c.1.toNat ≠ a) :
    s.readAfter l a = memRead s.mem a := by
  unfold State.readAfter
  induction l generalizing s with
  | nil => rfl
  | cons c rest ih =>
    rw [List.foldl_cons, if_neg (fun x => h c (by simp) x.1.symm)]
    exact ih s (fun c hc => h c (by simp [hc]))

/-- A frame that does not meet a pointer leaves the pointer's four bytes (R430, U14). -/
theorem frame_off_pointer {s : State} {t : Byte} (f : Flags) (ret : Word) (h : s.frameOverlaps t = false) (k : Nat)
    (hk : k < 4) : ∀ c ∈ s.frameBytes f ret, c.1.toNat ≠ 4 * t.toNat + k := by
  simp only [State.frameOverlaps, Bool.or_eq_false_iff, State.frameByteInPointer, decide_eq_false_iff_not] at h
  have e1 : s.gpr.sp - 2 + 1 = s.gpr.sp - 1 := by bv_omega
  have e3 : s.gpr.sp - 4 + 1 = s.gpr.sp - 3 := by bv_omega
  have e5 : s.gpr.sp - 6 + 1 = s.gpr.sp - 5 := by bv_omega
  intro c hc
  simp only [State.frameBytes, wordBytes, List.mem_append, List.mem_cons, List.not_mem_nil, or_false, e1, e3, e5] at hc
  obtain ⟨⟨⟨⟨⟨h1, h2⟩, h3⟩, h4⟩, h5⟩, h6⟩ := h
  rcases hc with (((rfl | rfl) | (rfl | rfl)) | (rfl | rfl)) <;> intro hh <;> simp only at hh <;> omega

/-- A word of a pointer that stands in memory. -/
theorem pointerWord_wordAt {s u : State} {t : Byte} (k : Nat) (hk : k = 0 ∨ k = 2) (hp : s.pointerInMemory t = true)
    (hu : u.plat = s.plat) : u.pointerWord t k = u.wordAt (4 * t.toNat + k) := by
  have hb : ∀ j < 4, u.busRead (BitVec.ofNat 20 (4 * t.toNat + j)) = memRead u.mem (4 * t.toNat + j) := by
    intro j hj
    have hkind := (List.all_eq_true.1 hp) j (by simp [hj])
    have ht : (BitVec.ofNat 20 (4 * t.toNat + j)).toNat = 4 * t.toNat + j := by
      have := t.isLt
      simp only [BitVec.toNat_ofNat]
      omega
    have hk2 : u.kindOf (BitVec.ofNat 20 (4 * t.toNat + j)) = s.kindOf (BitVec.ofNat 20 (4 * t.toNat + j)) := by
      simp [State.kindOf, hu]
    simp only [Bool.or_eq_true, beq_iff_eq] at hkind
    unfold State.busRead
    rw [hk2]
    rcases hkind with h | h <;> rw [h] <;> simp only <;> rw [ht]
  unfold State.pointerWord State.wordAt
  rcases hk with rfl | rfl
  · rw [show 4 * t.toNat + 0 + 1 = 4 * t.toNat + 1 by omega, hb 1 (by omega), hb 0 (by omega)]
  · rw [show 4 * t.toNat + 2 + 1 = 4 * t.toNat + 3 by omega, hb 3 (by omega), hb 2 (by omega)]

/-- All an entry through a pointer in memory does (R430 steps 1 to 7, R431). -/
theorem took_entered7 {s : State} {t : Byte} (ret : Word) (ho : s.frameOverlaps t = false)
    (hp : s.pointerInMemory t = true) : s.took (s.entered7 t ret) t ret := by
  have h0 := pointerWord_wordAt (u := (s.tick.pushFrame ret).yieldBus) 0 (.inl rfl) hp (by simp)
  have h2 := pointerWord_wordAt (u := (s.tick.pushFrame ret).yieldBus.yieldBus) 2 (.inr rfl) hp (by simp)
  have hip : (s.entered7 t ret).ip = (s.tick.pushFrame ret).yieldBus.wordAt (4 * t.toNat) := h0
  have hsr : (s.entered7 t ret).sregs =
      { s.sregs with cs := (s.tick.pushFrame ret).yieldBus.yieldBus.wordAt (4 * t.toNat + 2) } := by
    rw [← h2]
    simp [State.entered7, State.throughPointer, State.jumpFar]
  unfold State.took
  rw [hip, hsr, entered7_gpr, entered7_flags]
  have hmem : (s.entered7 t ret).mem = (s.tick.pushFrame ret).yieldBus.yieldBus.mem := by
    simp [State.entered7, State.throughPointer]
  have hbq : (s.entered7 t ret).busQueue = (s.tick.pushFrame ret).yieldBus.yieldBus.busQueue := by
    simp [State.entered7, State.throughPointer]
  refine ⟨gpr_set_onlyWord _ _ _, rfl, rfl, ⟨rfl, ?_⟩, fun _ => by rw [hmem], ?_, hbq, fun hq => ?_, ?_⟩
  · intro x hx
    cases x <;> first | exact absurd rfl hx | rfl
  · simp [State.entered7]
  · have hq1 : (s.tick.pushFrame ret).busQueue = [] := by
      rw [pushFrame_quiet ret (s := s.tick) hq]; simpa using hq
    have hst : s.storedBytes (s.tick.pushFrame ret) (s.frameBytes s.flags ret) :=
      storedBytes_congr (storedBytes_pushFrame (s := s.tick) ret hq) rfl rfl rfl rfl rfl
    have hm : ∀ j < 4, memRead (s.tick.pushFrame ret).mem (4 * t.toNat + j) = memRead s.mem (4 * t.toNat + j) :=
      fun j hj => by rw [hst.1, readAfter_other _ _ _ (frame_off_pointer _ _ ho j hj)]
    have hlog : (s.entered7 t ret).busLog = (s.tick.pushFrame ret).busLog := by simp [State.entered7]
    rw [yieldBus_quiet hq1, yieldBus_quiet hq1] at *
    refine ⟨storedBytes_congr hst rfl rfl rfl hmem hlog, ?_, ?_, by rw [hbq, hq1]⟩
    · simp only [State.wordAt]
      rw [hm 1 (by omega), show 4 * t.toNat = 4 * t.toNat + 0 from rfl, hm 0 (by omega)]
    · simp only [State.wordAt]
      rw [show 4 * t.toNat + 2 + 1 = 4 * t.toNat + 3 by omega, hm 3 (by omega), hm 2 (by omega)]
  · simp [State.entered7]

end Sys2Proof.Machine
end

