-- ==== Sys2Proof/Laws/Gaps.lean ====
section
/-! SUPPORT. Laws/Gaps.lean: what other masters do in the gaps between bus transfers (20_memory.md R71, R80, R82), and what
the recognition of interrupts answers where it takes one. -/

namespace Sys2Proof.Machine
open Sys2Proof

/-! ### Gaps -/

/-- All the bytes of other masters do to memory: RAM takes them, in order. -/
theorem memRead_masterWrites (l : List (PAddr × Byte)) (s : State) (a : Nat) :
    memRead (s.masterWrites l).mem a = s.readAfter l a := by
  have key : ∀ (l : List (PAddr × Byte)) (t : State), t.plat = s.plat →
      memRead (t.masterWrites l).mem a =
        l.foldl (fun v c => if a = c.1.toNat ∧ s.kindOf c.1 = .ram then c.2 else v) (memRead t.mem a) := by
    intro l
    induction l with
    | nil => intro t _; rfl
    | cons c rest ih =>
      intro t ht
      have hk : t.kindOf c.1 = s.kindOf c.1 := by simp [State.kindOf, ht]
      rw [State.masterWrites, ih (t.masterWrite c.1 c.2) (by simpa using ht), List.foldl_cons]
      congr 1
      rw [← hk]
      unfold State.masterWrite
      cases t.kindOf c.1 <;> simp [State.ramWrite, memRead_memWrite]
  exact key l s rfl

/-- A gap changes memory, the queue's record and what other masters have left to write, and nothing else. -/
theorem yieldBus_eq (s : State) :
    s.yieldBus = { s with mem := s.yieldBus.mem, stale := s.yieldBus.stale, busQueue := s.yieldBus.busQueue } := by
  have ext : ∀ u : State, u.gpr = s.gpr → u.sregs = s.sregs → u.ip = s.ip → u.flags = s.flags → u.nmiLatch = s.nmiLatch →
      u.delay = s.delay → u.halted = s.halted → u.waiting = s.waiting → u.pfx = s.pfx → u.running = s.running →
      u.start = s.start → u.afterWait = s.afterWait → u.entered = s.entered → u.pins = s.pins → u.inputs = s.inputs →
      u.ports = s.ports → u.busLog = s.busLog → u.plat = s.plat → u.freeIx = s.freeIx →
      u = { s with mem := u.mem, stale := u.stale, busQueue := u.busQueue } := by
    intro u; cases u; rintro rfl rfl rfl rfl rfl rfl rfl rfl rfl rfl rfl rfl rfl rfl rfl rfl rfl rfl rfl; rfl
  apply ext <;> simp

/-- The bytes of other masters land alike in states that differ neither in memory, record, `MemMap` nor the queue's place. -/
theorem masterWrites_congr (l : List (PAddr × Byte)) {s s' : State} (hm : s'.mem = s.mem) (hl : s'.stale = s.stale)
    (hp : s'.plat = s.plat) (hc : s'.sregs.cs = s.sregs.cs) (hq : s'.queueStart = s.queueStart) :
    (s'.masterWrites l).mem = (s.masterWrites l).mem ∧ (s'.masterWrites l).stale = (s.masterWrites l).stale := by
  induction l generalizing s s' with
  | nil => exact ⟨hm, hl⟩
  | cons c rest ih =>
    have hk : s'.kindOf c.1 = s.kindOf c.1 := by simp [State.kindOf, hp]
    have hy : s'.mayBePrefetched c.1 = s.mayBePrefetched c.1 := by simp [State.mayBePrefetched, hc, hq]
    have e : (s'.masterWrite c.1 c.2).mem = (s.masterWrite c.1 c.2).mem ∧
        (s'.masterWrite c.1 c.2).stale = (s.masterWrite c.1 c.2).stale := by
      unfold State.masterWrite
      rw [hk]
      split <;> simp [State.ramWrite, hm, hl, hy]
    exact ih e.1 e.2 (by simpa using hp) (by simpa using hc) (by simpa [State.queueStart] using hq)

/-- A gap is the same in states that differ in nothing it looks at. -/
theorem yieldBus_congr {s s' : State} (hm : s'.mem = s.mem) (hl : s'.stale = s.stale) (hp : s'.plat = s.plat)
    (hc : s'.sregs.cs = s.sregs.cs) (hq : s'.queueStart = s.queueStart) (hb : s'.busQueue = s.busQueue)
    (hk : s'.busLocked = s.busLocked) :
    s'.yieldBus.mem = s.yieldBus.mem ∧ s'.yieldBus.stale = s.yieldBus.stale ∧
      s'.yieldBus.busQueue = s.yieldBus.busQueue := by
  unfold State.yieldBus
  rw [hk, hb]
  split
  · exact ⟨hm, hl, hb⟩
  · split
    · exact ⟨hm, hl, hb⟩
    · next now later _ => exact ⟨(masterWrites_congr now hm hl hp hc hq).1, (masterWrites_congr now hm hl hp hc hq).2, rfl⟩

/-! ### Interrupts that chain nothing -/

/-- All a sequence does where no NMI is latched, no single step is due and the pointer stands in memory. -/
theorem sequence_took {t : Byte} {ret : Word} {s : State} (hn : s.nmiLatch = false) (ho : s.frameOverlaps t = false)
    (hp : s.pointerInMemory t = true) :
    ∃ u, sequence t ret false s = .next u ∧ s.took u t ret ∧ u.nmiLatch = false :=
  ⟨_, sequence_plain hn ho, took_entered7 ret ho hp, by simp [State.entered7, hn]⟩

/-- All an internal interrupt does under the same conditions. -/
theorem raise_took {t : Byte} {s : State} (hn : s.nmiLatch = false) (ht : s.flags.TF = false)
    (ho : s.frameOverlaps t = false) (hp : s.pointerInMemory t = true) :
    ∃ u, raise t s = .next u ∧ s.took u t s.ip ∧ u.entered = true ∧ u.nmiLatch = false := by
  obtain ⟨u, h1, h2, h3⟩ := sequence_took (ret := s.ip) hn ho hp
  refine ⟨{ u with entered := true }, ?_, h2, rfl, h3⟩
  unfold raise
  rw [ht, h1]
  rfl

end Sys2Proof.Machine
end

