-- ==== Sys2Proof/Laws/Chains.lean ====
section
/-! SUPPORT. Laws/Chains.lean: what an interrupt sequence does where an NMI or a single step is chained to it (R416, R430 steps
8, 9), on a stack of RAM that no other master writes. -/

namespace Sys2Proof.Machine
open Sys2Proof

/-- The `n` bytes below the top of the stack stand above the interrupt pointers. -/
def State.room (s : State) (n : Nat) : Prop :=
  ∀ k < n, 1024 ≤ (phys s.sregs.ss (s.gpr.sp - BitVec.ofNat 16 (k + 1))).toNat

theorem room_of_stack {s : State} (h : s.stackAbovePointers = true) : s.room 18 := fun k hk => by
  simpa using (List.all_eq_true.1 h) k (by simpa using hk)

theorem room_mono {s : State} {n m : Nat} (h : s.room n) (hm : m ≤ n) : s.room m := fun k hk => h k (by omega)

/-- Two offsets of one segment are two addresses. -/
theorem phys_ne (g : Word) {a b : Word} (h : a ≠ b) : (phys g a).toNat ≠ (phys g b).toNat := by
  intro e
  have := BitVec.eq_of_toNat_eq e
  unfold phys at this
  exact h (by bv_omega)

theorem frameOverlaps_room {s : State} (t : Byte) (h : s.room 6) : s.frameOverlaps t = false := by
  have ht := t.isLt
  simp only [State.frameOverlaps, Bool.or_eq_false_iff, State.frameByteInPointer, decide_eq_false_iff_not]
  refine ⟨⟨⟨⟨⟨?_, ?_⟩, ?_⟩, ?_⟩, ?_⟩, ?_⟩ <;> rintro ⟨-, y⟩
  · have := Nat.lt_of_le_of_lt (h 0 (by omega)) y; omega
  · have := Nat.lt_of_le_of_lt (h 1 (by omega)) y; omega
  · have := Nat.lt_of_le_of_lt (h 2 (by omega)) y; omega
  · have := Nat.lt_of_le_of_lt (h 3 (by omega)) y; omega
  · have := Nat.lt_of_le_of_lt (h 4 (by omega)) y; omega
  · have := Nat.lt_of_le_of_lt (h 5 (by omega)) y; omega

/-- The bytes of a frame stand at the six offsets below SP. -/
theorem frameBytes_offset {s : State} {f : Flags} {ret : Word} :
    ∀ c ∈ s.frameBytes f ret, ∃ k < 6, c.1 = phys s.sregs.ss (s.gpr.sp - BitVec.ofNat 16 (k + 1)) := by
  have e1 : s.gpr.sp - 2 + 1 = s.gpr.sp - 1 := by bv_omega
  have e3 : s.gpr.sp - 4 + 1 = s.gpr.sp - 3 := by bv_omega
  have e5 : s.gpr.sp - 6 + 1 = s.gpr.sp - 5 := by bv_omega
  intro c hc
  simp only [State.frameBytes, wordBytes, List.mem_append, List.mem_cons, List.not_mem_nil, or_false, e1, e3, e5] at hc
  rcases hc with (((rfl | rfl) | (rfl | rfl)) | (rfl | rfl))
  · exact ⟨1, by omega, rfl⟩
  · exact ⟨0, by omega, rfl⟩
  · exact ⟨3, by omega, rfl⟩
  · exact ⟨2, by omega, rfl⟩
  · exact ⟨5, by omega, rfl⟩
  · exact ⟨4, by omega, rfl⟩

/-- All an entry from `s` to `e` does on such a stack, with room for `n` more bytes. -/
structure EntryInRam (s e : State) (t : Byte) (ret : Word) (n : Nat) : Prop where
  run : enter t ret s = .next e
  sp : e.gpr.sp = s.gpr.sp - 6
  ss : e.sregs.ss = s.sregs.ss
  cs : e.sregs.cs = s.wordAt (4 * t.toNat + 2)
  ip : e.ip = s.wordAt (4 * t.toNat)
  memMap : e.plat.memMap = []
  quiet : e.busQueue = []
  nmi : e.nmiLatch = s.nmiLatch
  tf : e.flags.TF = false
  ifClear : e.flags.IF = false
  pointers : ∀ a < 1024, memRead e.mem a = memRead s.mem a
  room : e.room n
  top : e.read16 e.sregs.ss e.gpr.sp = ret
  above : ∀ d : Word, d.toNat < 65530 →
    memRead e.mem (phys s.sregs.ss (s.gpr.sp + d)).toNat = memRead s.mem (phys s.sregs.ss (s.gpr.sp + d)).toNat

theorem busRead_ram {s : State} (hm : s.plat.memMap = []) (a : PAddr) : s.busRead a = memRead s.mem a.toNat := by
  simp [State.busRead, State.kindOf, hm, kindAt]

theorem entry_in_ram {s : State} (t : Byte) (ret : Word) (n : Nat) (hn : n ≤ 12) (hm : s.plat.memMap = [])
    (hq : s.busQueue = []) (hr : s.room (n + 6)) : EntryInRam s (s.entered7 t ret) t ret n := by
  have ho := frameOverlaps_room t (room_mono hr (by omega))
  have hp : s.pointerInMemory t = true := by simp [State.pointerInMemory, State.kindOf, hm, kindAt]
  obtain ⟨hg, hf, -, hs, -, -, -, hqq, -⟩ := took_entered7 (s := s) (t := t) ret ho hp
  obtain ⟨hst, hip, hcs, hbq⟩ := hqq hq
  have hsp : (s.entered7 t ret).gpr.sp = s.gpr.sp - 6 := hg.1
  have hss : (s.entered7 t ret).sregs.ss = s.sregs.ss := hs.2 .ss (by decide)
  have hmap : (s.entered7 t ret).plat.memMap = [] := by simp [State.entered7, hm]
  have hkind : ∀ a, s.kindOf a = .ram := fun a => by simp [State.kindOf, hm, kindAt]
  refine ⟨enter_next.2 ⟨ho, rfl⟩, hsp, hss, hcs, hip, hmap, hbq, by simp [State.entered7], by rw [hf], by rw [hf],
    fun a ha => ?_, fun k hk => ?_, ?_, fun d hd => ?_⟩
  · rw [hst.1, readAfter_other]
    intro c hc
    obtain ⟨k, hk, he⟩ := frameBytes_offset c hc
    have := hr k (by omega)
    rw [he]; omega
  · have e : s.gpr.sp - 6 - BitVec.ofNat 16 (k + 1) = s.gpr.sp - BitVec.ofNat 16 (k + 6 + 1) := by
      have : k < 12 := by omega
      interval_cases k <;> bv_omega
    rw [hss, hsp, e]
    exact hr (k + 6) (by omega)
  · unfold State.read16
    rw [busRead_ram hmap, busRead_ram hmap, hst.1, hst.1, hss, hsp]
    have d := phys_ne s.sregs.ss (a := s.gpr.sp - 6 + 1) (b := s.gpr.sp - 6) (by bv_omega)
    simp only [State.readAfter, State.frameBytes, wordBytes, hkind, List.foldl_append, List.foldl_cons, List.foldl_nil,
      and_true, if_true]
    rw [if_neg d.symm]; simp
  · rw [hst.1, readAfter_other]
    intro c hc
    obtain ⟨k, hk, he⟩ := frameBytes_offset c hc
    rw [he]
    apply phys_ne
    interval_cases k <;> bv_omega

/-- A pointer's word is as before where the pointers are. -/
theorem wordAt_pointer {s e : State} (h : ∀ x < 1024, memRead e.mem x = memRead s.mem x) {a : Nat} (ha : a < 1023) :
    e.wordAt a = s.wordAt a := by
  simp only [State.wordAt]
  rw [h _ (by omega), h _ (by omega)]

/-- A sequence with a single step due on top (R430 step 9). -/
theorem sequence_single_chained {s : State} (t : Byte) (ret : Word) (hm : s.plat.memMap = []) (hq : s.busQueue = [])
    (hr : s.room 12) (hn : s.nmiLatch = false) : ∃ u, sequence t ret true s = .next u ∧ s.chained u t 1 12 := by
  have a := entry_in_ram t ret 6 (by omega) hm hq hr
  have b := entry_in_ram 1 (s.entered7 t ret).ip 0 (by omega) a.memMap a.quiet a.room
  have run : sequence t ret true s = .next (State.entered7 (s.entered7 t ret) 1 (s.entered7 t ret).ip) := by
    unfold sequence
    rw [a.run, andThen_ok, a.nmi, hn, if_neg (by decide), andThen_ok, if_pos rfl, b.run]
  refine ⟨_, run, by rw [b.nmi, a.nmi, hn], by rw [b.sp, a.sp]; bv_omega, ?_, ?_, by rw [b.top, a.ip], b.tf, b.ifClear⟩
  · rw [b.ip, wordAt_pointer a.pointers (by decide)]
  · rw [b.cs, wordAt_pointer a.pointers (by decide)]

/-- A sequence that meets a latched NMI (R430 step 8). -/
theorem sequence_nmi_chained {s : State} (t : Byte) (ret : Word) (hm : s.plat.memMap = []) (hq : s.busQueue = [])
    (hr : s.room 12) (hn : s.nmiLatch = true) : ∃ u, sequence t ret false s = .next u ∧ s.chained u t 2 12 := by
  have a := entry_in_ram t ret 6 (by omega) hm hq hr
  have b := entry_in_ram (s := (s.entered7 t ret).clearNmi) 2 (s.entered7 t ret).ip 0 (by omega) (by simpa using a.memMap)
    (by simpa using a.quiet) (by simpa [State.room] using a.room)
  have low : ∀ x < 1024, memRead (s.entered7 t ret).clearNmi.mem x = memRead s.mem x := fun x hx => by
    rw [clearNmi_mem, a.pointers x hx]
  have run : sequence t ret false s = .next (State.entered7 (s.entered7 t ret).clearNmi 2 (s.entered7 t ret).ip) := by
    unfold sequence
    rw [a.run, andThen_ok, a.nmi, hn, if_pos rfl, b.run, andThen_ok, if_neg (by decide)]
  refine ⟨_, run, by rw [b.nmi]; rfl, ?_, ?_, ?_, by rw [b.top, a.ip], b.tf, b.ifClear⟩
  · rw [b.sp, clearNmi_gpr, a.sp]; bv_omega
  · rw [b.ip, wordAt_pointer low (by decide)]
  · rw [b.cs, wordAt_pointer low (by decide)]

/-- A sequence that meets both (R416): three frames, the single step's on top of the NMI's. -/
theorem sequence_both_chained {s : State} (t : Byte) (ret : Word) (hm : s.plat.memMap = []) (hq : s.busQueue = [])
    (hr : s.room 18) (hn : s.nmiLatch = true) :
    ∃ u, sequence t ret true s = .next u ∧ s.chained u 2 1 18 ∧
      u.read16 u.sregs.ss (u.gpr.sp + 6) = s.wordAt (4 * t.toNat) := by
  have a := entry_in_ram t ret 12 (by omega) hm hq hr
  have b := entry_in_ram (s := (s.entered7 t ret).clearNmi) 2 (s.entered7 t ret).ip 6 (by omega) (by simpa using a.memMap)
    (by simpa using a.quiet) (by simpa [State.room] using a.room)
  have low1 : ∀ x < 1024, memRead (s.entered7 t ret).clearNmi.mem x = memRead s.mem x := fun x hx => by
    rw [clearNmi_mem, a.pointers x hx]
  have hsp : (s.entered7 t ret).clearNmi.gpr.sp = s.gpr.sp - 6 := by rw [clearNmi_gpr, a.sp]
  generalize hv : State.entered7 (s.entered7 t ret).clearNmi 2 (s.entered7 t ret).ip = v at b
  have c := entry_in_ram (s := v) 1 v.ip 0 (by omega) b.memMap b.quiet b.room
  have low : ∀ x < 1024, memRead v.mem x = memRead s.mem x := fun x hx => by rw [b.pointers x hx, low1 x hx]
  have run : sequence t ret true s = .next (v.entered7 1 v.ip) := by
    unfold sequence
    rw [a.run, andThen_ok, a.nmi, hn, if_pos rfl, b.run, andThen_ok, if_pos rfl, c.run]
  refine ⟨_, run, ⟨by rw [c.nmi, b.nmi]; rfl, ?_, ?_, ?_, ?_, c.tf, c.ifClear⟩, ?_⟩
  · rw [c.sp, b.sp, hsp]; bv_omega
  · rw [c.ip, wordAt_pointer low (by decide)]
  · rw [c.cs, wordAt_pointer low (by decide)]
  · rw [c.top, b.ip, wordAt_pointer low1 (by decide)]
  · refine Eq.trans ?_ (b.top.trans a.ip)
    have k0 := c.above 0 (by decide)
    rw [show v.gpr.sp + 0 = v.gpr.sp by simp] at k0
    unfold State.read16
    rw [busRead_ram c.memMap, busRead_ram c.memMap, busRead_ram b.memMap, busRead_ram b.memMap, c.ss, c.sp,
      show v.gpr.sp - 6 + 6 = v.gpr.sp by bv_omega, c.above 1 (by decide), k0]

end Sys2Proof.Machine
end

