-- ==== Sys2Proof/Laws/Cycle.lean ====
section
/-! SUPPORT. Laws/Cycle.lean: what a step does around `exec`, said once: what serving the environment leaves, and which of its
four kinds a step is. -/

namespace Sys2Proof.Machine
open Sys2Proof

variable (s : State)

/-! ### Serving the environment -/

@[simp] theorem sampleInputs_gpr : s.sampleInputs.gpr = s.gpr := by unfold State.sampleInputs; split <;> rfl
@[simp] theorem sampleInputs_sregs : s.sampleInputs.sregs = s.sregs := by unfold State.sampleInputs; split <;> rfl
@[simp] theorem sampleInputs_ip : s.sampleInputs.ip = s.ip := by unfold State.sampleInputs; split <;> rfl
@[simp] theorem sampleInputs_flags : s.sampleInputs.flags = s.flags := by unfold State.sampleInputs; split <;> rfl
@[simp] theorem sampleInputs_mem : s.sampleInputs.mem = s.mem := by unfold State.sampleInputs; split <;> rfl
@[simp] theorem sampleInputs_stale : s.sampleInputs.stale = s.stale := by unfold State.sampleInputs; split <;> rfl
@[simp] theorem sampleInputs_delay : s.sampleInputs.delay = s.delay := by unfold State.sampleInputs; split <;> rfl
@[simp] theorem sampleInputs_halted : s.sampleInputs.halted = s.halted := by unfold State.sampleInputs; split <;> rfl
@[simp] theorem sampleInputs_waiting : s.sampleInputs.waiting = s.waiting := by unfold State.sampleInputs; split <;> rfl
@[simp] theorem sampleInputs_pfx : s.sampleInputs.pfx = s.pfx := by unfold State.sampleInputs; split <;> rfl
@[simp] theorem sampleInputs_running : s.sampleInputs.running = s.running := by unfold State.sampleInputs; split <;> rfl
@[simp] theorem sampleInputs_start : s.sampleInputs.start = s.start := by unfold State.sampleInputs; split <;> rfl
@[simp] theorem sampleInputs_afterWait : s.sampleInputs.afterWait = s.afterWait := by unfold State.sampleInputs; split <;> rfl
@[simp] theorem sampleInputs_entered : s.sampleInputs.entered = s.entered := by unfold State.sampleInputs; split <;> rfl
@[simp] theorem sampleInputs_busLog : s.sampleInputs.busLog = s.busLog := by unfold State.sampleInputs; split <;> rfl
@[simp] theorem sampleInputs_plat : s.sampleInputs.plat = s.plat := by unfold State.sampleInputs; split <;> rfl

@[simp] theorem served_gpr : s.served.gpr = s.gpr := by simp [State.served]
@[simp] theorem served_sregs : s.served.sregs = s.sregs := by simp [State.served]
@[simp] theorem served_ip : s.served.ip = s.ip := by simp [State.served]
@[simp] theorem served_flags : s.served.flags = s.flags := by simp [State.served]
@[simp] theorem served_delay : s.served.delay = s.delay := by simp [State.served]
@[simp] theorem served_halted : s.served.halted = s.halted := by simp [State.served]
@[simp] theorem served_waiting : s.served.waiting = s.waiting := by simp [State.served]
@[simp] theorem served_pfx : s.served.pfx = s.pfx := by simp [State.served]
@[simp] theorem served_running : s.served.running = s.running := by simp [State.served]
@[simp] theorem served_start : s.served.start = s.start := by simp [State.served]
@[simp] theorem served_afterWait : s.served.afterWait = s.afterWait := by simp [State.served]
@[simp] theorem served_entered : s.served.entered = s.entered := by simp [State.served]
@[simp] theorem served_busLog : s.served.busLog = s.busLog := by simp [State.served]
@[simp] theorem served_plat : s.served.plat = s.plat := by simp [State.served]
@[simp] theorem served_pins : s.served.pins = s.sampleInputs.pins := by simp [State.served]
@[simp] theorem served_nmiLatch : s.served.nmiLatch = s.sampleInputs.nmiLatch := by simp [State.served]

theorem wf_served (w : Memory.wf s.mem = true) : Memory.wf s.served.mem = true := wf_yieldBus _ (by simpa using w)

/-! ### The kinds of a step -/

/-- Everything a step can be (R48, R470): dormant under RESET, the reset itself, a wait for the bus, or the CPU's turn. -/
theorem step_cases :
    (s.sampleInputs.pins.reset = true ∧ step s = .next s.served.dormant) ∨
      (s.sampleInputs.pins.reset = false ∧ s.pins.reset = true ∧ step s = .next s.served.afterReset) ∨
      (s.sampleInputs.pins.reset = false ∧ s.pins.reset = false ∧ (s.served.pins.hold && !s.served.busLocked) = true ∧
        step s = .next s.served) ∨
      (s.sampleInputs.pins.reset = false ∧ s.pins.reset = false ∧ (s.served.pins.hold && !s.served.busLocked) = false ∧
        step s = turn s.served) := by
  unfold step cycle State.served
  cases h1 : s.sampleInputs.pins.reset
  · cases h2 : s.pins.reset
    · cases h3 : s.sampleInputs.yieldBus.pins.hold && !s.sampleInputs.yieldBus.busLocked
      · exact .inr (.inr (.inr ⟨rfl, rfl, rfl, rfl⟩))
      · exact .inr (.inr (.inl ⟨rfl, rfl, rfl, rfl⟩))
    · exact .inr (.inl ⟨rfl, rfl, rfl⟩)
  · exact .inl ⟨rfl, rfl⟩

/-- A step without RESET, with the bus the CPU's, is the CPU's turn. -/
theorem step_turn {s : State} (h1 : s.sampleInputs.pins.reset = false) (h2 : s.pins.reset = false)
    (h3 : (s.served.pins.hold && !s.served.busLocked) = false) : step s = turn s.served := by
  rcases step_cases s with ⟨h, -⟩ | ⟨-, h, -⟩ | ⟨-, -, h, -⟩ | ⟨-, -, -, h⟩
  · rw [h1] at h; cases h
  · rw [h2] at h; cases h
  · rw [h3] at h; cases h
  · exact h

end Sys2Proof.Machine
end

