-- ==== Sys2Proof/Laws/Flags.lean ====
section
/-! SUPPORT. Laws/Flags.lean: the flag computations of Machine/Flags.lean in plain arithmetic, at the two widths. -/

namespace Sys2Proof.Machine
open Sys2Proof

/-- PF of a byte. -/
theorem parityEven_iff (b : Byte) : parityEven b = true ↔ evenOnes b.toNat := by
  have h : ∀ b : Byte, parityEven b = decide ((List.range 8).countP (fun i => b.toNat.testBit i) % 2 = 0) := by
    decide +revert
  rw [h, decide_eq_true_eq]; rfl

/-- PF looks at the low byte alone (R30). -/
theorem evenOnes_mod (v : Nat) : evenOnes (v % 256) ↔ evenOnes v := by
  have h : ∀ i ∈ List.range 8, (v % 256).testBit i = v.testBit i := by
    intro i hi
    have hi' : i < 8 := by simpa using hi
    rw [show 256 = 2 ^ 8 by rfl, Nat.testBit_mod_two_pow]; simp [hi']
  have h2 : (List.range 8).countP (fun i => (v % 256).testBit i) = (List.range 8).countP (fun i => v.testBit i) :=
    List.countP_congr (fun i hi => by rw [h i hi])
  unfold evenOnes
  rw [h2]

/-- The top bit says whether a number is in the upper half. -/
theorem msb_iff {n : Nat} (a : BitVec n) : a.msb = true ↔ 2 ^ (n - 1) ≤ a.toNat := by
  rw [BitVec.msb_eq_decide, decide_eq_true_eq]

/-- All `set_szp` does (R17). -/
theorem szpOf_setSzp {n : Nat} (f : Flags) (r : BitVec n) : (f.setSzp r).szpOf n r.toNat := by
  refine ⟨msb_iff r, ?_, ?_⟩
  · simp only [Flags.setSzp, beq_iff_eq]
    constructor
    · rintro rfl; simp
    · intro h; exact BitVec.eq_of_toNat_eq (by simpa using h)
  · simp only [Flags.setSzp]
    rw [parityEven_iff, BitVec.toNat_setWidth, show 2 ^ 8 = 256 by rfl, evenOnes_mod]

/-- The result of an addition. -/
theorem toNat_addResult (w : Width) (a b : BitVec w.bits) (c : Bool) :
    (addResult a b c).toNat = (a.toNat + b.toNat + c.toNat) % 2 ^ w.bits := by
  cases w <;> cases c <;> simp [addResult, carryIn, BitVec.toNat_add]

/-- The result of a subtraction. -/
theorem toNat_subResult (w : Width) (a b : BitVec w.bits) (c : Bool) :
    (subResult a b c).toNat = difference a b c := by
  have ha := a.isLt
  have hb := b.isLt
  cases w <;> cases c <;> simp only [subResult, carryIn, BitVec.toNat_sub, difference, Width.bits, BitVec.toNat_ofNat,
    Bool.toNat_false, Bool.toNat_true] at * <;> omega

/-- OF of an addition: the signed sum does not fit (R17, R34). -/
theorem overflowAdd_iff (w : Width) (a b : BitVec w.bits) (c : Bool) :
    overflowAdd a b (addResult a b c) = true ↔ tooBig w.bits (a.toInt + b.toInt + c.toNat) := by
  have hr := toNat_addResult w a b c
  have ha := a.isLt
  have hb := b.isLt
  simp only [overflowAdd, Bool.and_eq_true, beq_iff_eq, bne_iff_ne, ne_eq, tooBig, BitVec.toInt_eq_toNat_cond,
    BitVec.msb_eq_decide, hr, decide_eq_decide]
  cases w <;> cases c <;> simp only [Width.bits, Bool.toNat_false, Bool.toNat_true] at * <;> omega

/-- OF of a subtraction: the signed difference does not fit. -/
theorem overflowSub_iff (w : Width) (a b : BitVec w.bits) (c : Bool) :
    overflowSub a b (subResult a b c) = true ↔ tooBig w.bits (a.toInt - b.toInt - c.toNat) := by
  have hr := toNat_subResult w a b c
  have ha := a.isLt
  have hb := b.isLt
  simp only [overflowSub, Bool.and_eq_true, bne_iff_ne, ne_eq, tooBig, BitVec.toInt_eq_toNat_cond,
    BitVec.msb_eq_decide, hr, decide_eq_decide, difference]
  cases w <;> cases c <;> simp only [Width.bits, Bool.toNat_false, Bool.toNat_true] at * <;> omega

/-- All the flags of `add_op` (R200). -/
theorem sum_afterAdd (f : Flags) (w : Width) (a b : BitVec w.bits) (c : Bool) : f.sum (f.afterAdd a b c) a b c := by
  refine ⟨⟨?_, ?_, overflowAdd_iff w a b c, rfl, rfl, rfl⟩, ?_⟩
  · have h := szpOf_setSzp f (addResult a b c)
    rwa [toNat_addResult] at h
  · simp [Flags.afterAdd, auxAdd]
  · simp [Flags.afterAdd, carryAdd]

/-- All the flags of `sub_op` (R200). -/
theorem difference_afterSub (f : Flags) (w : Width) (a b : BitVec w.bits) (c : Bool) :
    f.difference (f.afterSub a b c) a b c := by
  refine ⟨⟨?_, ?_, overflowSub_iff w a b c, rfl, rfl, rfl⟩, ?_⟩
  · have h := szpOf_setSzp f (subResult a b c)
    rwa [toNat_subResult] at h
  · simp [Flags.afterSub, auxSub]
  · simp [Flags.afterSub, borrowSub]

/-- All the flags of INC (R207): CF alone is as before. -/
theorem sumBut_afterInc (f : Flags) (w : Width) (a : BitVec w.bits) :
    f.sumBut (f.afterInc a) a 1 false ∧ (f.afterInc a).CF = f.CF := ⟨(sum_afterAdd f w a 1 false).1, rfl⟩

/-- All the flags of DEC (R218): CF alone is as before. -/
theorem differenceBut_afterDec (f : Flags) (w : Width) (a : BitVec w.bits) :
    f.differenceBut (f.afterDec a) a 1 false ∧ (f.afterDec a).CF = f.CF := ⟨(difference_afterSub f w a 1 false).1, rfl⟩

/-- All the flags of `logic_flags` (R271). -/
theorem logic_afterLogic {n : Nat} (f : Flags) (r : BitVec n) (af : Bool) : f.logic (f.afterLogic r af) n r.toNat :=
  ⟨szpOf_setSzp f r, rfl, rfl, rfl, rfl, rfl⟩

end Sys2Proof.Machine
end

