-- ==== Sys2Proof/Laws/PerInstr.lean ====
section
/-! SUPPORT. Laws/PerInstr.lean: no instruction without its prefixes is longer than six bytes, and none is empty (R101): one
lemma per instruction. -/

namespace Sys2Proof.Laws
open Sys2Proof

theorem length_encWord (v : Word) : (encWord v).length = 2 := rfl

theorem length_encImm (imm : Imm) : (encImm imm).length ≤ 2 := by cases imm <;> simp [encImm, encWord]

theorem length_encMem (reg : BitVec 3) (m : Mem) : (encMem reg m).length ≤ 3 := by
  cases m <;> simp [encMem, encWord]

theorem length_encRm (reg : BitVec 3) (rm : RM) : (encRm reg rm).length ≤ 3 := by
  cases rm
  · simp [encRm]
  · exact length_encMem _ _

/-- What is said of each instruction (R101). -/
def EncodeLength.Statement (i : Instr) : Prop := WellFormed i = true → 1 ≤ (encode i).length ∧ (encode i).length ≤ 6

/-- A first byte and at most five more. -/
theorem length_cons_le (b : Byte) (l : List Byte) (h : l.length ≤ 5) : 1 ≤ (b :: l).length ∧ (b :: l).length ≤ 6 := by
  rw [List.length_cons]; omega

theorem length_rmImm (reg : BitVec 3) (rm : RM) (imm : Imm) : (encRm reg rm ++ encImm imm).length ≤ 5 := by
  have := length_encRm reg rm; have := length_encImm imm
  rw [List.length_append]; omega

theorem length_rmByte (reg : BitVec 3) (rm : RM) (v : Byte) : (encRm reg rm ++ [v]).length ≤ 5 := by
  have := length_encRm reg rm
  rw [List.length_append, List.length_singleton]; omega

theorem length_rm (reg : BitVec 3) (rm : RM) : (encRm reg rm).length ≤ 5 := (length_encRm reg rm).trans (by decide)

theorem length_mem (reg : BitVec 3) (m : Mem) : (encMem reg m).length ≤ 5 := (length_encMem reg m).trans (by decide)

theorem length_imm (imm : Imm) : (encImm imm).length ≤ 5 := (length_encImm imm).trans (by decide)

theorem EncodeLength.movRmReg (d : Bool) (w : Width) (rm : RM) (r : RegCode) : EncodeLength.Statement (.movRmReg d w rm r) :=
  fun _ => length_cons_le _ _ (length_rm _ _)
theorem EncodeLength.movRmImm (rm : RM) (imm : Imm) : EncodeLength.Statement (.movRmImm rm imm) :=
  fun _ => length_cons_le _ _ (length_rmImm _ _ _)
theorem EncodeLength.movReg8Imm (r : RegCode) (imm : Byte) : EncodeLength.Statement (.movReg8Imm r imm) :=
  fun _ => length_cons_le _ _ (Nat.le_of_ble_eq_true rfl)
theorem EncodeLength.movReg16Imm (r : RegCode) (imm : Word) : EncodeLength.Statement (.movReg16Imm r imm) :=
  fun _ => length_cons_le _ _ (Nat.le_of_ble_eq_true rfl)
theorem EncodeLength.movAccMem (w : Width) (addr : Word) : EncodeLength.Statement (.movAccMem w addr) :=
  fun _ => length_cons_le _ _ (Nat.le_of_ble_eq_true rfl)
theorem EncodeLength.movMemAcc (w : Width) (addr : Word) : EncodeLength.Statement (.movMemAcc w addr) :=
  fun _ => length_cons_le _ _ (Nat.le_of_ble_eq_true rfl)
theorem EncodeLength.movEsRm (rm : RM) : EncodeLength.Statement (.movEsRm rm) :=
  fun _ => length_cons_le _ _ (length_rm _ _)
theorem EncodeLength.movSsRm (rm : RM) : EncodeLength.Statement (.movSsRm rm) :=
  fun _ => length_cons_le _ _ (length_rm _ _)
theorem EncodeLength.movDsRm (rm : RM) : EncodeLength.Statement (.movDsRm rm) :=
  fun _ => length_cons_le _ _ (length_rm _ _)
theorem EncodeLength.movRmSreg (sr : SegReg) (rm : RM) : EncodeLength.Statement (.movRmSreg sr rm) :=
  fun _ => length_cons_le _ _ (length_rm _ _)
theorem EncodeLength.pushRm16 (rm : RM) : EncodeLength.Statement (.pushRm16 rm) :=
  fun _ => length_cons_le _ _ (length_rm _ _)
theorem EncodeLength.pushReg16 (r : RegCode) : EncodeLength.Statement (.pushReg16 r) :=
  fun _ => length_cons_le _ _ (Nat.le_of_ble_eq_true rfl)
theorem EncodeLength.pushEs : EncodeLength.Statement .pushEs := fun _ => ⟨by decide, by decide⟩
theorem EncodeLength.pushCs : EncodeLength.Statement .pushCs := fun _ => ⟨by decide, by decide⟩
theorem EncodeLength.pushSs : EncodeLength.Statement .pushSs := fun _ => ⟨by decide, by decide⟩
theorem EncodeLength.pushDs : EncodeLength.Statement .pushDs := fun _ => ⟨by decide, by decide⟩
theorem EncodeLength.popRm16 (rm : RM) : EncodeLength.Statement (.popRm16 rm) :=
  fun _ => length_cons_le _ _ (length_rm _ _)
theorem EncodeLength.popReg16 (r : RegCode) : EncodeLength.Statement (.popReg16 r) :=
  fun _ => length_cons_le _ _ (Nat.le_of_ble_eq_true rfl)
theorem EncodeLength.popEs : EncodeLength.Statement .popEs := fun _ => ⟨by decide, by decide⟩
theorem EncodeLength.popSs : EncodeLength.Statement .popSs := fun _ => ⟨by decide, by decide⟩
theorem EncodeLength.popDs : EncodeLength.Statement .popDs := fun _ => ⟨by decide, by decide⟩
theorem EncodeLength.xchgRmReg (w : Width) (rm : RM) (r : RegCode) : EncodeLength.Statement (.xchgRmReg w rm r) :=
  fun _ => length_cons_le _ _ (length_rm _ _)
theorem EncodeLength.xchgAxCx : EncodeLength.Statement .xchgAxCx := fun _ => ⟨by decide, by decide⟩
theorem EncodeLength.xchgAxDx : EncodeLength.Statement .xchgAxDx := fun _ => ⟨by decide, by decide⟩
theorem EncodeLength.xchgAxBx : EncodeLength.Statement .xchgAxBx := fun _ => ⟨by decide, by decide⟩
theorem EncodeLength.xchgAxSp : EncodeLength.Statement .xchgAxSp := fun _ => ⟨by decide, by decide⟩
theorem EncodeLength.xchgAxBp : EncodeLength.Statement .xchgAxBp := fun _ => ⟨by decide, by decide⟩
theorem EncodeLength.xchgAxSi : EncodeLength.Statement .xchgAxSi := fun _ => ⟨by decide, by decide⟩
theorem EncodeLength.xchgAxDi : EncodeLength.Statement .xchgAxDi := fun _ => ⟨by decide, by decide⟩
theorem EncodeLength.inAccPort (w : Width) (port : Byte) : EncodeLength.Statement (.inAccPort w port) :=
  fun _ => length_cons_le _ _ (Nat.le_of_ble_eq_true rfl)
theorem EncodeLength.inAccDx (w : Width) : EncodeLength.Statement (.inAccDx w) :=
  fun _ => length_cons_le _ _ (Nat.le_of_ble_eq_true rfl)
theorem EncodeLength.outPortAcc (w : Width) (port : Byte) : EncodeLength.Statement (.outPortAcc w port) :=
  fun _ => length_cons_le _ _ (Nat.le_of_ble_eq_true rfl)
theorem EncodeLength.outDxAcc (w : Width) : EncodeLength.Statement (.outDxAcc w) :=
  fun _ => length_cons_le _ _ (Nat.le_of_ble_eq_true rfl)
theorem EncodeLength.xlat : EncodeLength.Statement .xlat := fun _ => ⟨by decide, by decide⟩
theorem EncodeLength.lea (r : RegCode) (m : Mem) : EncodeLength.Statement (.lea r m) :=
  fun _ => length_cons_le _ _ (length_mem _ _)
theorem EncodeLength.lds (r : RegCode) (m : Mem) : EncodeLength.Statement (.lds r m) :=
  fun _ => length_cons_le _ _ (length_mem _ _)
theorem EncodeLength.les (r : RegCode) (m : Mem) : EncodeLength.Statement (.les r m) :=
  fun _ => length_cons_le _ _ (length_mem _ _)
theorem EncodeLength.lahf : EncodeLength.Statement .lahf := fun _ => ⟨by decide, by decide⟩
theorem EncodeLength.sahf : EncodeLength.Statement .sahf := fun _ => ⟨by decide, by decide⟩
theorem EncodeLength.pushf : EncodeLength.Statement .pushf := fun _ => ⟨by decide, by decide⟩
theorem EncodeLength.popf : EncodeLength.Statement .popf := fun _ => ⟨by decide, by decide⟩
theorem EncodeLength.addRmReg (d : Bool) (w : Width) (rm : RM) (r : RegCode) : EncodeLength.Statement (.addRmReg d w rm r) :=
  fun _ => length_cons_le _ _ (length_rm _ _)
theorem EncodeLength.addRmImm (rm : RM) (imm : Imm) : EncodeLength.Statement (.addRmImm rm imm) :=
  fun _ => length_cons_le _ _ (length_rmImm _ _ _)
theorem EncodeLength.addRmImmSx (rm : RM) (imm : Byte) : EncodeLength.Statement (.addRmImmSx rm imm) :=
  fun _ => length_cons_le _ _ (length_rmByte _ _ _)
theorem EncodeLength.addAccImm (imm : Imm) : EncodeLength.Statement (.addAccImm imm) :=
  fun _ => length_cons_le _ _ (length_imm _)
theorem EncodeLength.adcRmReg (d : Bool) (w : Width) (rm : RM) (r : RegCode) : EncodeLength.Statement (.adcRmReg d w rm r) :=
  fun _ => length_cons_le _ _ (length_rm _ _)
theorem EncodeLength.adcRmImm (rm : RM) (imm : Imm) : EncodeLength.Statement (.adcRmImm rm imm) :=
  fun _ => length_cons_le _ _ (length_rmImm _ _ _)
theorem EncodeLength.adcRmImmSx (rm : RM) (imm : Byte) : EncodeLength.Statement (.adcRmImmSx rm imm) :=
  fun _ => length_cons_le _ _ (length_rmByte _ _ _)
theorem EncodeLength.adcAccImm (imm : Imm) : EncodeLength.Statement (.adcAccImm imm) :=
  fun _ => length_cons_le _ _ (length_imm _)
theorem EncodeLength.subRmReg (d : Bool) (w : Width) (rm : RM) (r : RegCode) : EncodeLength.Statement (.subRmReg d w rm r) :=
  fun _ => length_cons_le _ _ (length_rm _ _)
theorem EncodeLength.subRmImm (rm : RM) (imm : Imm) : EncodeLength.Statement (.subRmImm rm imm) :=
  fun _ => length_cons_le _ _ (length_rmImm _ _ _)
theorem EncodeLength.subRmImmSx (rm : RM) (imm : Byte) : EncodeLength.Statement (.subRmImmSx rm imm) :=
  fun _ => length_cons_le _ _ (length_rmByte _ _ _)
theorem EncodeLength.subAccImm (imm : Imm) : EncodeLength.Statement (.subAccImm imm) :=
  fun _ => length_cons_le _ _ (length_imm _)
theorem EncodeLength.sbbRmReg (d : Bool) (w : Width) (rm : RM) (r : RegCode) : EncodeLength.Statement (.sbbRmReg d w rm r) :=
  fun _ => length_cons_le _ _ (length_rm _ _)
theorem EncodeLength.sbbRmImm (rm : RM) (imm : Imm) : EncodeLength.Statement (.sbbRmImm rm imm) :=
  fun _ => length_cons_le _ _ (length_rmImm _ _ _)
theorem EncodeLength.sbbRmImmSx (rm : RM) (imm : Byte) : EncodeLength.Statement (.sbbRmImmSx rm imm) :=
  fun _ => length_cons_le _ _ (length_rmByte _ _ _)
theorem EncodeLength.sbbAccImm (imm : Imm) : EncodeLength.Statement (.sbbAccImm imm) :=
  fun _ => length_cons_le _ _ (length_imm _)
theorem EncodeLength.cmpRmReg (d : Bool) (w : Width) (rm : RM) (r : RegCode) : EncodeLength.Statement (.cmpRmReg d w rm r) :=
  fun _ => length_cons_le _ _ (length_rm _ _)
theorem EncodeLength.cmpRmImm (rm : RM) (imm : Imm) : EncodeLength.Statement (.cmpRmImm rm imm) :=
  fun _ => length_cons_le _ _ (length_rmImm _ _ _)
theorem EncodeLength.cmpRmImmSx (rm : RM) (imm : Byte) : EncodeLength.Statement (.cmpRmImmSx rm imm) :=
  fun _ => length_cons_le _ _ (length_rmByte _ _ _)
theorem EncodeLength.cmpAccImm (imm : Imm) : EncodeLength.Statement (.cmpAccImm imm) :=
  fun _ => length_cons_le _ _ (length_imm _)
theorem EncodeLength.incRm8 (rm : RM) : EncodeLength.Statement (.incRm8 rm) :=
  fun _ => length_cons_le _ _ (length_rm _ _)
theorem EncodeLength.incRm16 (rm : RM) : EncodeLength.Statement (.incRm16 rm) :=
  fun _ => length_cons_le _ _ (length_rm _ _)
theorem EncodeLength.incReg16 (r : RegCode) : EncodeLength.Statement (.incReg16 r) :=
  fun _ => length_cons_le _ _ (Nat.le_of_ble_eq_true rfl)
theorem EncodeLength.decRm8 (rm : RM) : EncodeLength.Statement (.decRm8 rm) :=
  fun _ => length_cons_le _ _ (length_rm _ _)
theorem EncodeLength.decRm16 (rm : RM) : EncodeLength.Statement (.decRm16 rm) :=
  fun _ => length_cons_le _ _ (length_rm _ _)
theorem EncodeLength.decReg16 (r : RegCode) : EncodeLength.Statement (.decReg16 r) :=
  fun _ => length_cons_le _ _ (Nat.le_of_ble_eq_true rfl)
theorem EncodeLength.aaa : EncodeLength.Statement .aaa := fun _ => ⟨by decide, by decide⟩
theorem EncodeLength.daa : EncodeLength.Statement .daa := fun _ => ⟨by decide, by decide⟩
theorem EncodeLength.aas : EncodeLength.Statement .aas := fun _ => ⟨by decide, by decide⟩
theorem EncodeLength.das : EncodeLength.Statement .das := fun _ => ⟨by decide, by decide⟩
theorem EncodeLength.aam : EncodeLength.Statement .aam := fun _ => ⟨by decide, by decide⟩
theorem EncodeLength.aad : EncodeLength.Statement .aad := fun _ => ⟨by decide, by decide⟩
theorem EncodeLength.negRm (w : Width) (rm : RM) : EncodeLength.Statement (.negRm w rm) :=
  fun _ => length_cons_le _ _ (length_rm _ _)
theorem EncodeLength.mulRm (w : Width) (rm : RM) : EncodeLength.Statement (.mulRm w rm) :=
  fun _ => length_cons_le _ _ (length_rm _ _)
theorem EncodeLength.imulRm (w : Width) (rm : RM) : EncodeLength.Statement (.imulRm w rm) :=
  fun _ => length_cons_le _ _ (length_rm _ _)
theorem EncodeLength.divRm (w : Width) (rm : RM) : EncodeLength.Statement (.divRm w rm) :=
  fun _ => length_cons_le _ _ (length_rm _ _)
theorem EncodeLength.idivRm (w : Width) (rm : RM) : EncodeLength.Statement (.idivRm w rm) :=
  fun _ => length_cons_le _ _ (length_rm _ _)
theorem EncodeLength.cbw : EncodeLength.Statement .cbw := fun _ => ⟨by decide, by decide⟩
theorem EncodeLength.cwd : EncodeLength.Statement .cwd := fun _ => ⟨by decide, by decide⟩
theorem EncodeLength.notRm (w : Width) (rm : RM) : EncodeLength.Statement (.notRm w rm) :=
  fun _ => length_cons_le _ _ (length_rm _ _)
theorem EncodeLength.rolRm (byCl : Bool) (w : Width) (rm : RM) : EncodeLength.Statement (.rolRm byCl w rm) :=
  fun _ => length_cons_le _ _ (length_rm _ _)
theorem EncodeLength.rorRm (byCl : Bool) (w : Width) (rm : RM) : EncodeLength.Statement (.rorRm byCl w rm) :=
  fun _ => length_cons_le _ _ (length_rm _ _)
theorem EncodeLength.rclRm (byCl : Bool) (w : Width) (rm : RM) : EncodeLength.Statement (.rclRm byCl w rm) :=
  fun _ => length_cons_le _ _ (length_rm _ _)
theorem EncodeLength.rcrRm (byCl : Bool) (w : Width) (rm : RM) : EncodeLength.Statement (.rcrRm byCl w rm) :=
  fun _ => length_cons_le _ _ (length_rm _ _)
theorem EncodeLength.shlRm (byCl : Bool) (w : Width) (rm : RM) : EncodeLength.Statement (.shlRm byCl w rm) :=
  fun _ => length_cons_le _ _ (length_rm _ _)
theorem EncodeLength.shrRm (byCl : Bool) (w : Width) (rm : RM) : EncodeLength.Statement (.shrRm byCl w rm) :=
  fun _ => length_cons_le _ _ (length_rm _ _)
theorem EncodeLength.sarRm (byCl : Bool) (w : Width) (rm : RM) : EncodeLength.Statement (.sarRm byCl w rm) :=
  fun _ => length_cons_le _ _ (length_rm _ _)
theorem EncodeLength.andRmReg (d : Bool) (w : Width) (rm : RM) (r : RegCode) : EncodeLength.Statement (.andRmReg d w rm r) :=
  fun _ => length_cons_le _ _ (length_rm _ _)
theorem EncodeLength.andRmImm (rm : RM) (imm : Imm) : EncodeLength.Statement (.andRmImm rm imm) :=
  fun _ => length_cons_le _ _ (length_rmImm _ _ _)
theorem EncodeLength.andAccImm (imm : Imm) : EncodeLength.Statement (.andAccImm imm) :=
  fun _ => length_cons_le _ _ (length_imm _)
theorem EncodeLength.orRmReg (d : Bool) (w : Width) (rm : RM) (r : RegCode) : EncodeLength.Statement (.orRmReg d w rm r) :=
  fun _ => length_cons_le _ _ (length_rm _ _)
theorem EncodeLength.orRmImm (rm : RM) (imm : Imm) : EncodeLength.Statement (.orRmImm rm imm) :=
  fun _ => length_cons_le _ _ (length_rmImm _ _ _)
theorem EncodeLength.orAccImm (imm : Imm) : EncodeLength.Statement (.orAccImm imm) :=
  fun _ => length_cons_le _ _ (length_imm _)
theorem EncodeLength.xorRmReg (d : Bool) (w : Width) (rm : RM) (r : RegCode) : EncodeLength.Statement (.xorRmReg d w rm r) :=
  fun _ => length_cons_le _ _ (length_rm _ _)
theorem EncodeLength.xorRmImm (rm : RM) (imm : Imm) : EncodeLength.Statement (.xorRmImm rm imm) :=
  fun _ => length_cons_le _ _ (length_rmImm _ _ _)
theorem EncodeLength.xorAccImm (imm : Imm) : EncodeLength.Statement (.xorAccImm imm) :=
  fun _ => length_cons_le _ _ (length_imm _)
theorem EncodeLength.testRmReg (w : Width) (rm : RM) (r : RegCode) : EncodeLength.Statement (.testRmReg w rm r) :=
  fun _ => length_cons_le _ _ (length_rm _ _)
theorem EncodeLength.testRmImm (rm : RM) (imm : Imm) : EncodeLength.Statement (.testRmImm rm imm) :=
  fun _ => length_cons_le _ _ (length_rmImm _ _ _)
theorem EncodeLength.testAccImm (imm : Imm) : EncodeLength.Statement (.testAccImm imm) :=
  fun _ => length_cons_le _ _ (length_imm _)
theorem EncodeLength.movs (w : Width) : EncodeLength.Statement (.movs w) :=
  fun _ => length_cons_le _ _ (Nat.le_of_ble_eq_true rfl)
theorem EncodeLength.cmps (w : Width) : EncodeLength.Statement (.cmps w) :=
  fun _ => length_cons_le _ _ (Nat.le_of_ble_eq_true rfl)
theorem EncodeLength.scas (w : Width) : EncodeLength.Statement (.scas w) :=
  fun _ => length_cons_le _ _ (Nat.le_of_ble_eq_true rfl)
theorem EncodeLength.lods (w : Width) : EncodeLength.Statement (.lods w) :=
  fun _ => length_cons_le _ _ (Nat.le_of_ble_eq_true rfl)
theorem EncodeLength.stos (w : Width) : EncodeLength.Statement (.stos w) :=
  fun _ => length_cons_le _ _ (Nat.le_of_ble_eq_true rfl)
theorem EncodeLength.callNear (disp : Word) : EncodeLength.Statement (.callNear disp) :=
  fun _ => length_cons_le _ _ (Nat.le_of_ble_eq_true rfl)
theorem EncodeLength.callNearInd (rm : RM) : EncodeLength.Statement (.callNearInd rm) :=
  fun _ => length_cons_le _ _ (length_rm _ _)
theorem EncodeLength.callFar (off : Word) (seg : Word) : EncodeLength.Statement (.callFar off seg) :=
  fun _ => length_cons_le _ _ (Nat.le_of_ble_eq_true rfl)
theorem EncodeLength.callFarInd (m : Mem) : EncodeLength.Statement (.callFarInd m) :=
  fun _ => length_cons_le _ _ (length_mem _ _)
theorem EncodeLength.jmpNear (disp : Word) : EncodeLength.Statement (.jmpNear disp) :=
  fun _ => length_cons_le _ _ (Nat.le_of_ble_eq_true rfl)
theorem EncodeLength.jmpShort (disp : Byte) : EncodeLength.Statement (.jmpShort disp) :=
  fun _ => length_cons_le _ _ (Nat.le_of_ble_eq_true rfl)
theorem EncodeLength.jmpNearInd (rm : RM) : EncodeLength.Statement (.jmpNearInd rm) :=
  fun _ => length_cons_le _ _ (length_rm _ _)
theorem EncodeLength.jmpFar (off : Word) (seg : Word) : EncodeLength.Statement (.jmpFar off seg) :=
  fun _ => length_cons_le _ _ (Nat.le_of_ble_eq_true rfl)
theorem EncodeLength.jmpFarInd (m : Mem) : EncodeLength.Statement (.jmpFarInd m) :=
  fun _ => length_cons_le _ _ (length_mem _ _)
theorem EncodeLength.ret : EncodeLength.Statement .ret := fun _ => ⟨by decide, by decide⟩
theorem EncodeLength.retImm (n : Word) : EncodeLength.Statement (.retImm n) :=
  fun _ => length_cons_le _ _ (Nat.le_of_ble_eq_true rfl)
theorem EncodeLength.retf : EncodeLength.Statement .retf := fun _ => ⟨by decide, by decide⟩
theorem EncodeLength.retfImm (n : Word) : EncodeLength.Statement (.retfImm n) :=
  fun _ => length_cons_le _ _ (Nat.le_of_ble_eq_true rfl)
theorem EncodeLength.jo (disp : Byte) : EncodeLength.Statement (.jo disp) :=
  fun _ => length_cons_le _ _ (Nat.le_of_ble_eq_true rfl)
theorem EncodeLength.jno (disp : Byte) : EncodeLength.Statement (.jno disp) :=
  fun _ => length_cons_le _ _ (Nat.le_of_ble_eq_true rfl)
theorem EncodeLength.jb (disp : Byte) : EncodeLength.Statement (.jb disp) :=
  fun _ => length_cons_le _ _ (Nat.le_of_ble_eq_true rfl)
theorem EncodeLength.jnb (disp : Byte) : EncodeLength.Statement (.jnb disp) :=
  fun _ => length_cons_le _ _ (Nat.le_of_ble_eq_true rfl)
theorem EncodeLength.je (disp : Byte) : EncodeLength.Statement (.je disp) :=
  fun _ => length_cons_le _ _ (Nat.le_of_ble_eq_true rfl)
theorem EncodeLength.jne (disp : Byte) : EncodeLength.Statement (.jne disp) :=
  fun _ => length_cons_le _ _ (Nat.le_of_ble_eq_true rfl)
theorem EncodeLength.jbe (disp : Byte) : EncodeLength.Statement (.jbe disp) :=
  fun _ => length_cons_le _ _ (Nat.le_of_ble_eq_true rfl)
theorem EncodeLength.jnbe (disp : Byte) : EncodeLength.Statement (.jnbe disp) :=
  fun _ => length_cons_le _ _ (Nat.le_of_ble_eq_true rfl)
theorem EncodeLength.js (disp : Byte) : EncodeLength.Statement (.js disp) :=
  fun _ => length_cons_le _ _ (Nat.le_of_ble_eq_true rfl)
theorem EncodeLength.jns (disp : Byte) : EncodeLength.Statement (.jns disp) :=
  fun _ => length_cons_le _ _ (Nat.le_of_ble_eq_true rfl)
theorem EncodeLength.jp (disp : Byte) : EncodeLength.Statement (.jp disp) :=
  fun _ => length_cons_le _ _ (Nat.le_of_ble_eq_true rfl)
theorem EncodeLength.jnp (disp : Byte) : EncodeLength.Statement (.jnp disp) :=
  fun _ => length_cons_le _ _ (Nat.le_of_ble_eq_true rfl)
theorem EncodeLength.jl (disp : Byte) : EncodeLength.Statement (.jl disp) :=
  fun _ => length_cons_le _ _ (Nat.le_of_ble_eq_true rfl)
theorem EncodeLength.jnl (disp : Byte) : EncodeLength.Statement (.jnl disp) :=
  fun _ => length_cons_le _ _ (Nat.le_of_ble_eq_true rfl)
theorem EncodeLength.jle (disp : Byte) : EncodeLength.Statement (.jle disp) :=
  fun _ => length_cons_le _ _ (Nat.le_of_ble_eq_true rfl)
theorem EncodeLength.jnle (disp : Byte) : EncodeLength.Statement (.jnle disp) :=
  fun _ => length_cons_le _ _ (Nat.le_of_ble_eq_true rfl)
theorem EncodeLength.loop (disp : Byte) : EncodeLength.Statement (.loop disp) :=
  fun _ => length_cons_le _ _ (Nat.le_of_ble_eq_true rfl)
theorem EncodeLength.loopz (disp : Byte) : EncodeLength.Statement (.loopz disp) :=
  fun _ => length_cons_le _ _ (Nat.le_of_ble_eq_true rfl)
theorem EncodeLength.loopnz (disp : Byte) : EncodeLength.Statement (.loopnz disp) :=
  fun _ => length_cons_le _ _ (Nat.le_of_ble_eq_true rfl)
theorem EncodeLength.jcxz (disp : Byte) : EncodeLength.Statement (.jcxz disp) :=
  fun _ => length_cons_le _ _ (Nat.le_of_ble_eq_true rfl)
theorem EncodeLength.intN (t : Byte) : EncodeLength.Statement (.intN t) :=
  fun _ => length_cons_le _ _ (Nat.le_of_ble_eq_true rfl)
theorem EncodeLength.int3 : EncodeLength.Statement .int3 := fun _ => ⟨by decide, by decide⟩
theorem EncodeLength.into : EncodeLength.Statement .into := fun _ => ⟨by decide, by decide⟩
theorem EncodeLength.iret : EncodeLength.Statement .iret := fun _ => ⟨by decide, by decide⟩
theorem EncodeLength.clc : EncodeLength.Statement .clc := fun _ => ⟨by decide, by decide⟩
theorem EncodeLength.cmc : EncodeLength.Statement .cmc := fun _ => ⟨by decide, by decide⟩
theorem EncodeLength.stc : EncodeLength.Statement .stc := fun _ => ⟨by decide, by decide⟩
theorem EncodeLength.cld : EncodeLength.Statement .cld := fun _ => ⟨by decide, by decide⟩
theorem EncodeLength.std : EncodeLength.Statement .std := fun _ => ⟨by decide, by decide⟩
theorem EncodeLength.cli : EncodeLength.Statement .cli := fun _ => ⟨by decide, by decide⟩
theorem EncodeLength.sti : EncodeLength.Statement .sti := fun _ => ⟨by decide, by decide⟩
theorem EncodeLength.hlt : EncodeLength.Statement .hlt := fun _ => ⟨by decide, by decide⟩
theorem EncodeLength.wait : EncodeLength.Statement .wait := fun _ => ⟨by decide, by decide⟩
theorem EncodeLength.esc (hi : BitVec 3) (lo : BitVec 3) (rm : RM) : EncodeLength.Statement (.esc hi lo rm) :=
  fun _ => length_cons_le _ _ (length_rm _ _)
theorem EncodeLength.lock : EncodeLength.Statement .lock := fun _ => ⟨by decide, by decide⟩
theorem EncodeLength.nop : EncodeLength.Statement .nop := fun _ => ⟨by decide, by decide⟩
theorem EncodeLength.overrideEs : EncodeLength.Statement .overrideEs := fun _ => ⟨by decide, by decide⟩
theorem EncodeLength.overrideCs : EncodeLength.Statement .overrideCs := fun _ => ⟨by decide, by decide⟩
theorem EncodeLength.overrideSs : EncodeLength.Statement .overrideSs := fun _ => ⟨by decide, by decide⟩
theorem EncodeLength.overrideDs : EncodeLength.Statement .overrideDs := fun _ => ⟨by decide, by decide⟩
theorem EncodeLength.rep (z : Bool) : EncodeLength.Statement (.rep z) :=
  fun _ => length_cons_le _ _ (Nat.le_of_ble_eq_true rfl)
theorem EncodeLength.refPushSp : EncodeLength.Statement .refPushSp := fun _ => ⟨by decide, by decide⟩
theorem EncodeLength.resPopCs : EncodeLength.Statement .resPopCs := fun _ => ⟨by decide, by decide⟩
theorem EncodeLength.res60 (lo : BitVec 4) : EncodeLength.Statement (.res60 lo) :=
  fun _ => length_cons_le _ _ (Nat.le_of_ble_eq_true rfl)
theorem EncodeLength.res82 : EncodeLength.Statement .res82 := fun _ => ⟨by decide, by decide⟩
theorem EncodeLength.res83Or (mod : BitVec 2) (rm : BitVec 3) : EncodeLength.Statement (.res83Or mod rm) :=
  fun _ => length_cons_le _ _ (Nat.le_of_ble_eq_true rfl)
theorem EncodeLength.res83And (mod : BitVec 2) (rm : BitVec 3) : EncodeLength.Statement (.res83And mod rm) :=
  fun _ => length_cons_le _ _ (Nat.le_of_ble_eq_true rfl)
theorem EncodeLength.res83Xor (mod : BitVec 2) (rm : BitVec 3) : EncodeLength.Statement (.res83Xor mod rm) :=
  fun _ => length_cons_le _ _ (Nat.le_of_ble_eq_true rfl)
theorem EncodeLength.res8C (mod : BitVec 2) (lo : BitVec 5) : EncodeLength.Statement (.res8C mod lo) :=
  fun _ => length_cons_le _ _ (Nat.le_of_ble_eq_true rfl)
theorem EncodeLength.res8E (mod : BitVec 2) (lo : BitVec 5) : EncodeLength.Statement (.res8E mod lo) :=
  fun _ => length_cons_le _ _ (Nat.le_of_ble_eq_true rfl)
theorem EncodeLength.resMovCs (mod : BitVec 2) (rm : BitVec 3) : EncodeLength.Statement (.resMovCs mod rm) :=
  fun _ => length_cons_le _ _ (Nat.le_of_ble_eq_true rfl)
theorem EncodeLength.resLea (reg : BitVec 3) (rm : BitVec 3) : EncodeLength.Statement (.resLea reg rm) :=
  fun _ => length_cons_le _ _ (Nat.le_of_ble_eq_true rfl)
theorem EncodeLength.resLes (reg : BitVec 3) (rm : BitVec 3) : EncodeLength.Statement (.resLes reg rm) :=
  fun _ => length_cons_le _ _ (Nat.le_of_ble_eq_true rfl)
theorem EncodeLength.resLds (reg : BitVec 3) (rm : BitVec 3) : EncodeLength.Statement (.resLds reg rm) :=
  fun _ => length_cons_le _ _ (Nat.le_of_ble_eq_true rfl)
theorem EncodeLength.res8F1 (mod : BitVec 2) (rm : BitVec 3) : EncodeLength.Statement (.res8F1 mod rm) :=
  fun _ => length_cons_le _ _ (Nat.le_of_ble_eq_true rfl)
theorem EncodeLength.res8F2 (mod : BitVec 2) (rm : BitVec 3) : EncodeLength.Statement (.res8F2 mod rm) :=
  fun _ => length_cons_le _ _ (Nat.le_of_ble_eq_true rfl)
theorem EncodeLength.res8F3 (mod : BitVec 2) (rm : BitVec 3) : EncodeLength.Statement (.res8F3 mod rm) :=
  fun _ => length_cons_le _ _ (Nat.le_of_ble_eq_true rfl)
theorem EncodeLength.res8F4 (mod : BitVec 2) (rm : BitVec 3) : EncodeLength.Statement (.res8F4 mod rm) :=
  fun _ => length_cons_le _ _ (Nat.le_of_ble_eq_true rfl)
theorem EncodeLength.res8F5 (mod : BitVec 2) (rm : BitVec 3) : EncodeLength.Statement (.res8F5 mod rm) :=
  fun _ => length_cons_le _ _ (Nat.le_of_ble_eq_true rfl)
theorem EncodeLength.res8F6 (mod : BitVec 2) (rm : BitVec 3) : EncodeLength.Statement (.res8F6 mod rm) :=
  fun _ => length_cons_le _ _ (Nat.le_of_ble_eq_true rfl)
theorem EncodeLength.res8F7 (mod : BitVec 2) (rm : BitVec 3) : EncodeLength.Statement (.res8F7 mod rm) :=
  fun _ => length_cons_le _ _ (Nat.le_of_ble_eq_true rfl)
theorem EncodeLength.resC0 (x : BitVec 1) : EncodeLength.Statement (.resC0 x) :=
  fun _ => length_cons_le _ _ (Nat.le_of_ble_eq_true rfl)
theorem EncodeLength.resC8 (x : BitVec 1) : EncodeLength.Statement (.resC8 x) :=
  fun _ => length_cons_le _ _ (Nat.le_of_ble_eq_true rfl)
theorem EncodeLength.resC61 (w : Width) (mod : BitVec 2) (rm : BitVec 3) : EncodeLength.Statement (.resC61 w mod rm) :=
  fun _ => length_cons_le _ _ (Nat.le_of_ble_eq_true rfl)
theorem EncodeLength.resC62 (w : Width) (mod : BitVec 2) (rm : BitVec 3) : EncodeLength.Statement (.resC62 w mod rm) :=
  fun _ => length_cons_le _ _ (Nat.le_of_ble_eq_true rfl)
theorem EncodeLength.resC63 (w : Width) (mod : BitVec 2) (rm : BitVec 3) : EncodeLength.Statement (.resC63 w mod rm) :=
  fun _ => length_cons_le _ _ (Nat.le_of_ble_eq_true rfl)
theorem EncodeLength.resC64 (w : Width) (mod : BitVec 2) (rm : BitVec 3) : EncodeLength.Statement (.resC64 w mod rm) :=
  fun _ => length_cons_le _ _ (Nat.le_of_ble_eq_true rfl)
theorem EncodeLength.resC65 (w : Width) (mod : BitVec 2) (rm : BitVec 3) : EncodeLength.Statement (.resC65 w mod rm) :=
  fun _ => length_cons_le _ _ (Nat.le_of_ble_eq_true rfl)
theorem EncodeLength.resC66 (w : Width) (mod : BitVec 2) (rm : BitVec 3) : EncodeLength.Statement (.resC66 w mod rm) :=
  fun _ => length_cons_le _ _ (Nat.le_of_ble_eq_true rfl)
theorem EncodeLength.resC67 (w : Width) (mod : BitVec 2) (rm : BitVec 3) : EncodeLength.Statement (.resC67 w mod rm) :=
  fun _ => length_cons_le _ _ (Nat.le_of_ble_eq_true rfl)
theorem EncodeLength.resD06 (v : Bool) (w : Width) (mod : BitVec 2) (rm : BitVec 3) : EncodeLength.Statement (.resD06 v w mod rm) :=
  fun _ => length_cons_le _ _ (Nat.le_of_ble_eq_true rfl)
theorem EncodeLength.resD4 (b : Byte) : EncodeLength.Statement (.resD4 b) :=
  fun _ => length_cons_le _ _ (Nat.le_of_ble_eq_true rfl)
theorem EncodeLength.resD5 (b : Byte) : EncodeLength.Statement (.resD5 b) :=
  fun _ => length_cons_le _ _ (Nat.le_of_ble_eq_true rfl)
theorem EncodeLength.resD6 : EncodeLength.Statement .resD6 := fun _ => ⟨by decide, by decide⟩
theorem EncodeLength.resF1 : EncodeLength.Statement .resF1 := fun _ => ⟨by decide, by decide⟩
theorem EncodeLength.resF61 (w : Width) (mod : BitVec 2) (rm : BitVec 3) : EncodeLength.Statement (.resF61 w mod rm) :=
  fun _ => length_cons_le _ _ (Nat.le_of_ble_eq_true rfl)
theorem EncodeLength.resFE2 (mod : BitVec 2) (rm : BitVec 3) : EncodeLength.Statement (.resFE2 mod rm) :=
  fun _ => length_cons_le _ _ (Nat.le_of_ble_eq_true rfl)
theorem EncodeLength.resFE3 (mod : BitVec 2) (rm : BitVec 3) : EncodeLength.Statement (.resFE3 mod rm) :=
  fun _ => length_cons_le _ _ (Nat.le_of_ble_eq_true rfl)
theorem EncodeLength.resFE4 (mod : BitVec 2) (rm : BitVec 3) : EncodeLength.Statement (.resFE4 mod rm) :=
  fun _ => length_cons_le _ _ (Nat.le_of_ble_eq_true rfl)
theorem EncodeLength.resFE5 (mod : BitVec 2) (rm : BitVec 3) : EncodeLength.Statement (.resFE5 mod rm) :=
  fun _ => length_cons_le _ _ (Nat.le_of_ble_eq_true rfl)
theorem EncodeLength.resFE6 (mod : BitVec 2) (rm : BitVec 3) : EncodeLength.Statement (.resFE6 mod rm) :=
  fun _ => length_cons_le _ _ (Nat.le_of_ble_eq_true rfl)
theorem EncodeLength.resFE7 (mod : BitVec 2) (rm : BitVec 3) : EncodeLength.Statement (.resFE7 mod rm) :=
  fun _ => length_cons_le _ _ (Nat.le_of_ble_eq_true rfl)
theorem EncodeLength.resFF7 (mod : BitVec 2) (rm : BitVec 3) : EncodeLength.Statement (.resFF7 mod rm) :=
  fun _ => length_cons_le _ _ (Nat.le_of_ble_eq_true rfl)
theorem EncodeLength.resCallFarReg (rm : BitVec 3) : EncodeLength.Statement (.resCallFarReg rm) :=
  fun _ => length_cons_le _ _ (Nat.le_of_ble_eq_true rfl)
theorem EncodeLength.resJmpFarReg (rm : BitVec 3) : EncodeLength.Statement (.resJmpFarReg rm) :=
  fun _ => length_cons_le _ _ (Nat.le_of_ble_eq_true rfl)

end Sys2Proof.Laws
end

