-- ==== Sys2Proof/Laws/Shifts.lean ====
section
/-! SUPPORT. Laws/Shifts.lean: what repeating a one-bit step leaves (42_logic.md R251 to R258), in closed form. -/

namespace Sys2Proof.Machine
open Sys2Proof

/-! ### Shifts -/

/-- SHL by `k` (R252). -/
theorem shiftBy_shl {n : Nat} (k : Nat) (a : BitVec n) (c : Bool) :
    shiftBy shlStep n k a c = (a <<< k, if k = 0 then c else decide (k ≤ n) && a.getLsbD (n - k)) := by
  induction k generalizing a c with
  | zero => simp [shiftBy]
  | succ k ih =>
    simp only [shiftBy, shlStep, ih, Prod.mk.injEq, Nat.add_eq_zero_iff, one_ne_zero, and_false, if_false]
    refine ⟨by rw [← BitVec.shiftLeft_add, Nat.add_comm], ?_⟩
    by_cases hk : k = 0
    · subst hk
      rcases Nat.eq_zero_or_pos n with rfl | hn
      · simp [BitVec.msb_eq_getLsbD_last]
      · simp [BitVec.msb_eq_getLsbD_last, show 1 ≤ n by omega]
    · rw [if_neg hk, BitVec.getLsbD_shiftLeft]
      by_cases h1 : k + 1 ≤ n
      · simp [h1, show k ≤ n by omega, show n - k < n by omega, show ¬ n - k = 0 by omega,
          show n - k - 1 = n - (k + 1) by omega]
      · simp [h1]; omega

/-- SHR by `k` (R253). -/
theorem shiftBy_shr {n : Nat} (k : Nat) (a : BitVec n) (c : Bool) :
    shiftBy shrStep n k a c = (a >>> k, if k = 0 then c else a.getLsbD (k - 1)) := by
  induction k generalizing a c with
  | zero => simp [shiftBy]
  | succ k ih =>
    simp only [shiftBy, shrStep, ih, Prod.mk.injEq, Nat.add_eq_zero_iff, one_ne_zero, and_false, if_false]
    refine ⟨by rw [← BitVec.shiftRight_add, Nat.add_comm], ?_⟩
    by_cases hk : k = 0
    · simp [hk]
    · rw [if_neg hk, BitVec.getLsbD_ushiftRight]
      congr 1; omega

/-- SAR by `k` (R254). -/
theorem shiftBy_sar {n : Nat} (k : Nat) (a : BitVec n) (c : Bool) :
    shiftBy sarStep n k a c =
      (a.sshiftRight k, if k = 0 then c else (a.sshiftRight (k - 1)).getLsbD 0) := by
  induction k generalizing a c with
  | zero => simp [shiftBy]
  | succ k ih =>
    simp only [shiftBy, sarStep, ih, Prod.mk.injEq, Nat.add_eq_zero_iff, one_ne_zero, and_false, if_false]
    refine ⟨by rw [← BitVec.sshiftRight_add, Nat.add_comm], ?_⟩
    by_cases hk : k = 0
    · simp [hk]
    · rw [if_neg hk, ← BitVec.sshiftRight_add]
      congr 2; omega

/-! ### Rotates -/

/-- One more place to the left. -/
theorem rotateLeft_succ {n : Nat} (hn : 1 < n) (a : BitVec n) (k : Nat) :
    (a.rotateLeft 1).rotateLeft k = a.rotateLeft (k + 1) := by
  have h1 : 1 % n = 1 := Nat.mod_eq_of_lt hn
  have h2 : (k + 1) % n = if k % n = n - 1 then 0 else k % n + 1 := by
    rw [Nat.add_mod, h1]
    have := Nat.mod_lt k (by omega : n > 0)
    split
    · rw [show k % n + 1 = n by omega, Nat.mod_self]
    · exact Nat.mod_eq_of_lt (by omega)
  have h3 := Nat.mod_lt k (by omega : n > 0)
  ext i hi
  simp only [BitVec.getElem_rotateLeft, h1, h2]
  grind

/-- One more place to the right. -/
theorem rotateRight_succ {n : Nat} (hn : 1 < n) (a : BitVec n) (k : Nat) :
    (a.rotateRight 1).rotateRight k = a.rotateRight (k + 1) := by
  have h1 : 1 % n = 1 := Nat.mod_eq_of_lt hn
  have h2 : (k + 1) % n = if k % n = n - 1 then 0 else k % n + 1 := by
    rw [Nat.add_mod, h1]
    have := Nat.mod_lt k (by omega : n > 0)
    split
    · rw [show k % n + 1 = n by omega, Nat.mod_self]
    · exact Nat.mod_eq_of_lt (by omega)
  have h3 := Nat.mod_lt k (by omega : n > 0)
  ext i hi
  simp only [BitVec.getElem_rotateRight, h1, h2]
  grind

/-- The bits of a carry. -/
theorem getElem_carryIn {n : Nat} (c : Bool) (i : Nat) (h : i < n) : (carryIn n c)[i] = (decide (i = 0) && c) := by
  cases c
  · simp [carryIn]
  · simp only [carryIn, Bool.toNat_true, Bool.and_true]
    exact BitVec.getElem_one h

/-- One step of ROL (R255). -/
theorem rolStep_eq {n : Nat} (hn : 1 < n) (a : BitVec n) (c : Bool) :
    rolStep n a c = (a.rotateLeft 1, (a.rotateLeft 1).getLsbD 0) := by
  have h1 : 1 % n = 1 := Nat.mod_eq_of_lt hn
  simp only [rolStep, Prod.mk.injEq, BitVec.getLsbD_rotateLeft, h1, BitVec.msb_eq_getLsbD_last]
  refine ⟨?_, by simp⟩
  ext i hi
  simp only [BitVec.getElem_or, BitVec.getElem_shiftLeft, getElem_carryIn, BitVec.getElem_rotateLeft, h1]
  grind

/-- One step of ROR (R256). -/
theorem rorStep_eq {n : Nat} (hn : 1 < n) (a : BitVec n) (c : Bool) :
    rorStep n a c = (a.rotateRight 1, (a.rotateRight 1).msb) := by
  have h1 : 1 % n = 1 := Nat.mod_eq_of_lt hn
  simp only [rorStep, Prod.mk.injEq, BitVec.msb_eq_getLsbD_last, BitVec.getLsbD_rotateRight, h1]
  refine ⟨?_, by simp; omega⟩
  ext i hi
  simp only [BitVec.getElem_or, BitVec.getElem_ushiftRight, BitVec.getElem_shiftLeft, getElem_carryIn,
    BitVec.getElem_rotateRight, h1]
  grind

/-- ROL by `k` (R255). -/
theorem shiftBy_rol {n : Nat} (hn : 1 < n) (k : Nat) (a : BitVec n) (c : Bool) :
    shiftBy rolStep n k a c = (a.rotateLeft k, if k = 0 then c else (a.rotateLeft k).getLsbD 0) := by
  induction k generalizing a c with
  | zero => simp [shiftBy, BitVec.rotateLeft, BitVec.rotateLeftAux, BitVec.ushiftRight_eq_zero]
  | succ k ih =>
    simp only [shiftBy, rolStep_eq hn, ih, rotateLeft_succ hn, Nat.add_eq_zero_iff, one_ne_zero, and_false, if_false]
    by_cases hk : k = 0 <;> simp [hk]

/-- ROR by `k` (R256). -/
theorem shiftBy_ror {n : Nat} (hn : 1 < n) (k : Nat) (a : BitVec n) (c : Bool) :
    shiftBy rorStep n k a c = (a.rotateRight k, if k = 0 then c else (a.rotateRight k).msb) := by
  induction k generalizing a c with
  | zero => simp [shiftBy, BitVec.rotateRight, BitVec.rotateRightAux]
  | succ k ih =>
    simp only [shiftBy, rorStep_eq hn, ih, rotateRight_succ hn, Nat.add_eq_zero_iff, one_ne_zero, and_false, if_false]
    by_cases hk : k = 0 <;> simp [hk]

/-- One step of RCL rotates the n + 1 bits of CF : operand (R257). -/
theorem rclStep_eq {n : Nat} (hn : 0 < n) (a : BitVec n) (c : Bool) :
    BitVec.cons (rclStep n a c).2 (rclStep n a c).1 = (BitVec.cons c a).rotateLeft 1 := by
  have h1 : 1 % (n + 1) = 1 := Nat.mod_eq_of_lt (by omega)
  ext i hi
  simp only [rclStep, BitVec.getElem_cons, BitVec.getElem_or, BitVec.getElem_shiftLeft, getElem_carryIn,
    BitVec.getElem_rotateLeft, h1, BitVec.msb_eq_getLsbD_last]
  grind

/-- One step of RCR (R258). -/
theorem rcrStep_eq {n : Nat} (hn : 0 < n) (a : BitVec n) (c : Bool) :
    BitVec.cons (rcrStep n a c).2 (rcrStep n a c).1 = (BitVec.cons c a).rotateRight 1 := by
  have h1 : 1 % (n + 1) = 1 := Nat.mod_eq_of_lt (by omega)
  ext i hi
  simp only [rcrStep, BitVec.getElem_cons, BitVec.getElem_or, BitVec.getElem_ushiftRight, BitVec.getElem_shiftLeft,
    getElem_carryIn, BitVec.getElem_rotateRight, h1]
  by_cases h2 : i = n
  · subst h2; simp; grind
  · by_cases h3 : i + 1 = n
    · subst h3; simp; omega
    · grind

/-- RCL by `k` (R257). -/
theorem shiftBy_rcl {n : Nat} (hn : 0 < n) (k : Nat) (a : BitVec n) (c : Bool) :
    BitVec.cons (shiftBy rclStep n k a c).2 (shiftBy rclStep n k a c).1 = (BitVec.cons c a).rotateLeft k := by
  induction k generalizing a c with
  | zero => simp [shiftBy, BitVec.rotateLeft, BitVec.rotateLeftAux, BitVec.ushiftRight_eq_zero]
  | succ k ih => rw [shiftBy, ih, rclStep_eq hn, rotateLeft_succ (by omega)]

/-- RCR by `k` (R258). -/
theorem shiftBy_rcr {n : Nat} (hn : 0 < n) (k : Nat) (a : BitVec n) (c : Bool) :
    BitVec.cons (shiftBy rcrStep n k a c).2 (shiftBy rcrStep n k a c).1 = (BitVec.cons c a).rotateRight k := by
  induction k generalizing a c with
  | zero => simp [shiftBy, BitVec.rotateRight, BitVec.rotateRightAux]
  | succ k ih => rw [shiftBy, ih, rcrStep_eq hn, rotateRight_succ (by omega)]

end Sys2Proof.Machine
end

