-- ==== Sys2Proof/Tests/Slice0.lean ====
section
/-! SUPPORT. Tests/Slice0.lean: the author's own tests: what WellFormed refuses, the decoding of words written out from the
encodings of 30_encoding.md, one step each of rows of 95_test_vectors.md (their expected results, by the row's id in the
name), and a state that meets the hypotheses of every statement that has any. -/

namespace Sys2Proof.Tests
open Sys2Proof Sys2Proof.Machine

/-! ### What WellFormed refuses -/

/-- R107: mod = 00, r/m = 110 is the direct address. -/
theorem test_wellFormed_plain_bp : WellFormed (.lea .r000 (.plain .bp)) = false := by decide

/-- R159: FFH F4H is no PUSH r/m16. -/
theorem test_wellFormed_push_sp : WellFormed (.pushRm16 (.reg .r100)) = false := by decide

/-- R119: the second byte 0AH makes it AAM. -/
theorem test_wellFormed_resD4 : WellFormed (.resD4 0x0A) = false := by decide

/-- R119: the second byte 0AH makes it AAD. -/
theorem test_wellFormed_resD5 : WellFormed (.resD5 0x0A) = false := by decide

theorem test_wellFormed_accepts : WellFormed (.movRmReg true .word (.mem (.disp8 .bp 0)) .r000) = true := by decide

/-! ### Decoding: every instruction, from a word written out from its encoding -/

/-- Exactly these bytes decode to the instruction, and none is left over. -/
def decodesTo (bytes : List Byte) (i : Instr) : Bool :=
  match decode bytes with
  | .ok (j, rest) => j == i && rest.isEmpty
  | .error _ => false

/-- R150 to R179. -/
theorem test_decode_transfer_1 :
    (decodesTo [0x88, 0x48, 0x05] (.movRmReg false .byte (.mem (.disp8 .bxSi 0x05)) .r001) &&
      decodesTo [0x8B, 0x87, 0x00, 0x80] (.movRmReg true .word (.mem (.disp16 .bx 0x8000)) .r000) &&
      decodesTo [0xC7, 0x06, 0x34, 0x12, 0x78, 0x56] (.movRmImm (.mem (.direct 0x1234)) (.word 0x5678)) &&
      decodesTo [0xB4, 0x7F] (.movReg8Imm .r100 0x7F) &&
      decodesTo [0xBC, 0x00, 0x10] (.movReg16Imm .r100 0x1000) &&
      decodesTo [0xA1, 0x00, 0x02] (.movAccMem .word 0x0200) &&
      decodesTo [0xA2, 0xFF, 0xFF] (.movMemAcc .byte 0xFFFF) && decodesTo [0x8E, 0xC0] (.movEsRm (.reg .r000)) &&
      decodesTo [0x8E, 0x17] (.movSsRm (.mem (.plain .bx))) && decodesTo [0x8E, 0xD8] (.movDsRm (.reg .r000)) &&
      decodesTo [0x8C, 0xC8] (.movRmSreg .cs (.reg .r000)) &&
      decodesTo [0xFF, 0x37] (.pushRm16 (.mem (.plain .bx))) && decodesTo [0x54] (.pushReg16 .r100) &&
      decodesTo [0x06] .pushEs && decodesTo [0x0E] .pushCs && decodesTo [0x16] .pushSs &&
      decodesTo [0x1E] .pushDs && decodesTo [0x8F, 0x07] (.popRm16 (.mem (.plain .bx))) &&
      decodesTo [0x5B] (.popReg16 .r011) && decodesTo [0x07] .popEs && decodesTo [0x17] .popSs &&
      decodesTo [0x1F] .popDs && decodesTo [0x86, 0x14] (.xchgRmReg .byte (.mem (.plain .si)) .r010) &&
      decodesTo [0x91] .xchgAxCx) = true := by decide

/-- R150 to R179. -/
theorem test_decode_transfer_2 :
    (decodesTo [0x92] .xchgAxDx && decodesTo [0x93] .xchgAxBx && decodesTo [0x94] .xchgAxSp &&
      decodesTo [0x95] .xchgAxBp && decodesTo [0x96] .xchgAxSi && decodesTo [0x97] .xchgAxDi &&
      decodesTo [0xE4, 0x60] (.inAccPort .byte 0x60) && decodesTo [0xED] (.inAccDx .word) &&
      decodesTo [0xE6, 0x61] (.outPortAcc .byte 0x61) && decodesTo [0xEF] (.outDxAcc .word) &&
      decodesTo [0xD7] .xlat && decodesTo [0x8D, 0x40, 0x02] (.lea .r000 (.disp8 .bxSi 0x02)) &&
      decodesTo [0xC5, 0x37] (.lds .r110 (.plain .bx)) &&
      decodesTo [0xC4, 0x7F, 0x04] (.les .r111 (.disp8 .bx 0x04)) && decodesTo [0x9F] .lahf &&
      decodesTo [0x9E] .sahf && decodesTo [0x9C] .pushf && decodesTo [0x9D] .popf) = true := by decide

/-- R201 to R238. -/
theorem test_decode_arithmetic_1 :
    (decodesTo [0x01, 0xD8] (.addRmReg false .word (.reg .r000) .r011) &&
      decodesTo [0x80, 0x07, 0x10] (.addRmImm (.mem (.plain .bx)) (.byte 0x10)) &&
      decodesTo [0x83, 0xC3, 0xFF] (.addRmImmSx (.reg .r011) 0xFF) &&
      decodesTo [0x05, 0x01, 0x00] (.addAccImm (.word 0x0001)) &&
      decodesTo [0x12, 0x01] (.adcRmReg true .byte (.mem (.plain .bxDi)) .r000) &&
      decodesTo [0x81, 0xD1, 0x02, 0x01] (.adcRmImm (.reg .r001) (.word 0x0102)) &&
      decodesTo [0x83, 0xD0, 0x80] (.adcRmImmSx (.reg .r000) 0x80) &&
      decodesTo [0x14, 0x0F] (.adcAccImm (.byte 0x0F)) &&
      decodesTo [0x28, 0xD8] (.subRmReg false .byte (.reg .r000) .r011) &&
      decodesTo [0x80, 0xE9, 0x05] (.subRmImm (.reg .r001) (.byte 0x05)) &&
      decodesTo [0x83, 0xEA, 0x01] (.subRmImmSx (.reg .r010) 0x01) &&
      decodesTo [0x2D, 0x34, 0x12] (.subAccImm (.word 0x1234)) &&
      decodesTo [0x1B, 0x02] (.sbbRmReg true .word (.mem (.plain .bpSi)) .r000) &&
      decodesTo [0x81, 0x1E, 0x00, 0x02, 0x34, 0x12] (.sbbRmImm (.mem (.direct 0x0200)) (.word 0x1234)) &&
      decodesTo [0x83, 0x1B, 0x07] (.sbbRmImmSx (.mem (.plain .bpDi)) 0x07) &&
      decodesTo [0x1C, 0x01] (.sbbAccImm (.byte 0x01)) &&
      decodesTo [0x39, 0xD8] (.cmpRmReg false .word (.reg .r000) .r011) &&
      decodesTo [0x80, 0x3D, 0x0A] (.cmpRmImm (.mem (.plain .di)) (.byte 0x0A)) &&
      decodesTo [0x83, 0x3E, 0x00, 0x02, 0xFF] (.cmpRmImmSx (.mem (.direct 0x0200)) 0xFF) &&
      decodesTo [0x3C, 0x80] (.cmpAccImm (.byte 0x80)) && decodesTo [0xFE, 0xC0] (.incRm8 (.reg .r000)) &&
      decodesTo [0xFF, 0x06, 0x00, 0x02] (.incRm16 (.mem (.direct 0x0200))) &&
      decodesTo [0x40] (.incReg16 .r000) && decodesTo [0xFE, 0xC8] (.decRm8 (.reg .r000))) = true := by decide

/-- R201 to R238. -/
theorem test_decode_arithmetic_2 :
    (decodesTo [0xFF, 0x4E, 0xFE] (.decRm16 (.mem (.disp8 .bp 0xFE))) && decodesTo [0x4F] (.decReg16 .r111) &&
      decodesTo [0x37] .aaa && decodesTo [0x27] .daa && decodesTo [0x3F] .aas && decodesTo [0x2F] .das &&
      decodesTo [0xD4, 0x0A] .aam && decodesTo [0xD5, 0x0A] .aad &&
      decodesTo [0xF7, 0xD8] (.negRm .word (.reg .r000)) && decodesTo [0xF6, 0xE3] (.mulRm .byte (.reg .r011)) &&
      decodesTo [0xF7, 0xEB] (.imulRm .word (.reg .r011)) && decodesTo [0xF6, 0xF3] (.divRm .byte (.reg .r011)) &&
      decodesTo [0xF7, 0x3C] (.idivRm .word (.mem (.plain .si))) && decodesTo [0x98] .cbw && decodesTo [0x99] .cwd) = true := by decide

/-- R250 to R270. -/
theorem test_decode_logic :
    (decodesTo [0xF6, 0xD0] (.notRm .byte (.reg .r000)) &&
      decodesTo [0xD0, 0xC0] (.rolRm false .byte (.reg .r000)) &&
      decodesTo [0xD3, 0xC8] (.rorRm true .word (.reg .r000)) &&
      decodesTo [0xD2, 0xD0] (.rclRm true .byte (.reg .r000)) &&
      decodesTo [0xD1, 0x1F] (.rcrRm false .word (.mem (.plain .bx))) &&
      decodesTo [0xD3, 0xE0] (.shlRm true .word (.reg .r000)) &&
      decodesTo [0xD0, 0xE8] (.shrRm false .byte (.reg .r000)) &&
      decodesTo [0xD1, 0xF8] (.sarRm false .word (.reg .r000)) &&
      decodesTo [0x21, 0xD8] (.andRmReg false .word (.reg .r000) .r011) &&
      decodesTo [0x80, 0x64, 0x01, 0x0F] (.andRmImm (.mem (.disp8 .si 0x01)) (.byte 0x0F)) &&
      decodesTo [0x24, 0x0F] (.andAccImm (.byte 0x0F)) &&
      decodesTo [0x0A, 0x45, 0x7F] (.orRmReg true .byte (.mem (.disp8 .di 0x7F)) .r000) &&
      decodesTo [0x80, 0x0F, 0x80] (.orRmImm (.mem (.plain .bx)) (.byte 0x80)) &&
      decodesTo [0x0D, 0x01, 0x00] (.orAccImm (.word 0x0001)) &&
      decodesTo [0x31, 0xC0] (.xorRmReg false .word (.reg .r000) .r000) &&
      decodesTo [0x81, 0xF6, 0xAA, 0x55] (.xorRmImm (.reg .r110) (.word 0x55AA)) &&
      decodesTo [0x34, 0xFF] (.xorAccImm (.byte 0xFF)) &&
      decodesTo [0x85, 0xC0] (.testRmReg .word (.reg .r000) .r000) &&
      decodesTo [0xF6, 0xC3, 0x80] (.testRmImm (.reg .r011) (.byte 0x80)) &&
      decodesTo [0xA9, 0x00, 0x80] (.testAccImm (.word 0x8000))) = true := by decide

/-- R293 to R297. -/
theorem test_decode_strings :
    (decodesTo [0xA5] (.movs .word) && decodesTo [0xA6] (.cmps .byte) && decodesTo [0xAF] (.scas .word) &&
      decodesTo [0xAC] (.lods .byte) && decodesTo [0xAB] (.stos .word)) = true := by decide

/-- R320 to R363. -/
theorem test_decode_transfers_of_control_1 :
    (decodesTo [0xE8, 0x10, 0x00] (.callNear 0x0010) && decodesTo [0xFF, 0xD3] (.callNearInd (.reg .r011)) &&
      decodesTo [0x9A, 0x00, 0x02, 0x00, 0x50] (.callFar 0x0200 0x5000) &&
      decodesTo [0xFF, 0x1F] (.callFarInd (.plain .bx)) && decodesTo [0xE9, 0xFD, 0xFF] (.jmpNear 0xFFFD) &&
      decodesTo [0xEB, 0xFE] (.jmpShort 0xFE) && decodesTo [0xFF, 0x27] (.jmpNearInd (.mem (.plain .bx))) &&
      decodesTo [0xEA, 0x00, 0x02, 0x00, 0x50] (.jmpFar 0x0200 0x5000) &&
      decodesTo [0xFF, 0x2F] (.jmpFarInd (.plain .bx)) && decodesTo [0xC3] .ret &&
      decodesTo [0xC2, 0x04, 0x00] (.retImm 0x0004) && decodesTo [0xCB] .retf &&
      decodesTo [0xCA, 0x02, 0x00] (.retfImm 0x0002) && decodesTo [0x70, 0x10] (.jo 0x10) &&
      decodesTo [0x71, 0x10] (.jno 0x10) && decodesTo [0x72, 0x10] (.jb 0x10) &&
      decodesTo [0x73, 0x10] (.jnb 0x10) && decodesTo [0x74, 0x10] (.je 0x10) &&
      decodesTo [0x75, 0x10] (.jne 0x10) && decodesTo [0x76, 0x10] (.jbe 0x10) &&
      decodesTo [0x77, 0x10] (.jnbe 0x10) && decodesTo [0x78, 0x10] (.js 0x10) &&
      decodesTo [0x79, 0x10] (.jns 0x10) && decodesTo [0x7A, 0x10] (.jp 0x10)) = true := by decide

/-- R320 to R363. -/
theorem test_decode_transfers_of_control_2 :
    (decodesTo [0x7B, 0x10] (.jnp 0x10) && decodesTo [0x7C, 0x10] (.jl 0x10) &&
      decodesTo [0x7D, 0x10] (.jnl 0x10) && decodesTo [0x7E, 0x10] (.jle 0x10) &&
      decodesTo [0x7F, 0x10] (.jnle 0x10) && decodesTo [0xE2, 0xFE] (.loop 0xFE) &&
      decodesTo [0xE1, 0xFE] (.loopz 0xFE) && decodesTo [0xE0, 0xFE] (.loopnz 0xFE) &&
      decodesTo [0xE3, 0x10] (.jcxz 0x10) && decodesTo [0xCD, 0x21] (.intN 0x21) && decodesTo [0xCC] .int3 &&
      decodesTo [0xCE] .into && decodesTo [0xCF] .iret) = true := by decide

/-- R390 to R402, R292. -/
theorem test_decode_processor_control :
    (decodesTo [0xF8] .clc && decodesTo [0xF5] .cmc && decodesTo [0xF9] .stc && decodesTo [0xFC] .cld &&
      decodesTo [0xFD] .std && decodesTo [0xFA] .cli && decodesTo [0xFB] .sti && decodesTo [0xF4] .hlt &&
      decodesTo [0x9B] .wait && decodesTo [0xD9, 0x06, 0x00, 0x02] (.esc 1 0 (.mem (.direct 0x0200))) &&
      decodesTo [0xDB, 0xE3] (.esc 3 4 (.reg .r011)) && decodesTo [0xF0] .lock && decodesTo [0x90] .nop &&
      decodesTo [0x26] .overrideEs && decodesTo [0x2E] .overrideCs && decodesTo [0x36] .overrideSs &&
      decodesTo [0x3E] .overrideDs && decodesTo [0xF2] (.rep false) && decodesTo [0xF3] (.rep true)) = true := by decide

/-- R119, R159. -/
theorem test_decode_reserved_1 :
    (decodesTo [0xFF, 0xF4] .refPushSp && decodesTo [0x0F] .resPopCs && decodesTo [0x6B] (.res60 0xB) &&
      decodesTo [0x82] .res82 && decodesTo [0x83, 0xC8] (.res83Or 3 0) &&
      decodesTo [0x83, 0x21] (.res83And 0 1) && decodesTo [0x83, 0x72] (.res83Xor 1 2) &&
      decodesTo [0x8C, 0xE0] (.res8C 3 0) && decodesTo [0x8E, 0x3F] (.res8E 0 31) &&
      decodesTo [0x8E, 0xC8] (.resMovCs 3 0) && decodesTo [0x8D, 0xC1] (.resLea 0 1) &&
      decodesTo [0xC4, 0xD3] (.resLes 2 3) && decodesTo [0xC5, 0xE5] (.resLds 4 5) &&
      decodesTo [0x8F, 0x08] (.res8F1 0 0) && decodesTo [0x8F, 0x51] (.res8F2 1 1) &&
      decodesTo [0x8F, 0x9A] (.res8F3 2 2) && decodesTo [0x8F, 0xE3] (.res8F4 3 3) &&
      decodesTo [0x8F, 0x2C] (.res8F5 0 4) && decodesTo [0x8F, 0x75] (.res8F6 1 5) &&
      decodesTo [0x8F, 0xBE] (.res8F7 2 6) && decodesTo [0xC1] (.resC0 1) && decodesTo [0xC8] (.resC8 0) &&
      decodesTo [0xC6, 0xC8] (.resC61 .byte 3 0) && decodesTo [0xC7, 0x10] (.resC62 .word 0 0)) = true := by decide

/-- R119, R159. -/
theorem test_decode_reserved_2 :
    (decodesTo [0xC6, 0x58] (.resC63 .byte 1 0) && decodesTo [0xC7, 0xA1] (.resC64 .word 2 1) &&
      decodesTo [0xC6, 0xE9] (.resC65 .byte 3 1) && decodesTo [0xC7, 0x31] (.resC66 .word 0 1) &&
      decodesTo [0xC6, 0x7A] (.resC67 .byte 1 2) && decodesTo [0xD3, 0xF0] (.resD06 true .word 3 0) &&
      decodesTo [0xD4, 0x0B] (.resD4 0x0B) && decodesTo [0xD5, 0x00] (.resD5 0x00) && decodesTo [0xD6] .resD6 &&
      decodesTo [0xF1] .resF1 && decodesTo [0xF7, 0xC8] (.resF61 .word 3 0) &&
      decodesTo [0xFE, 0xD0] (.resFE2 3 0) && decodesTo [0xFE, 0x18] (.resFE3 0 0) &&
      decodesTo [0xFE, 0x60] (.resFE4 1 0) && decodesTo [0xFE, 0xA8] (.resFE5 2 0) &&
      decodesTo [0xFE, 0xF1] (.resFE6 3 1) && decodesTo [0xFE, 0x39] (.resFE7 0 1) &&
      decodesTo [0xFF, 0xF9] (.resFF7 3 1) && decodesTo [0xFF, 0xD9] (.resCallFarReg 1) &&
      decodesTo [0xFF, 0xEA] (.resJmpFarReg 2)) = true := by decide

/-! ### One step

The state of 95_test_vectors.md: CS, DS, ES, SS = 1000H, 2000H, 3000H, 4000H, IP = 0100H, what the row names set, everything
else 0. -/

/-- General registers all 0. -/
def regs : Gpr := State.reset.gpr

/-- Flags all 0. -/
def noFlags : Flags := Flags.clear

/-- Segment registers; ES is 3000H. -/
def segments (cs ss ds : Word) : SegRegs := { es := 0x3000, cs := cs, ss := ss, ds := ds }

/-- Input levels: INTR with the type 20H, and TEST. -/
def levels (intr testLow : Bool) : Pins :=
  { reset := false, intr := intr, intType := 0x20, testLow := testLow, hold := false }

/-- The state of a row: bytes at CS : IP, registers, flags, bytes of memory. -/
def vec (bytes : List Byte) (g : Gpr) (f : Flags) (m : List (Nat × Byte)) : State :=
  State.withBytes
    { State.reset with
      gpr := g, sregs := segments 0x1000 0x4000 0x2000, ip := 0x0100, flags := f
      mem := m.foldl (fun x c => memWrite x c.1 c.2) [] } bytes

/-- The next state satisfies `p`. -/
def check (s : State) (p : State → Bool) : Bool :=
  match step s with
  | .next t => p t
  | .refused _ => false
  | .fault _ => false

/-- The step is refused with this name. -/
def refusedAs (s : State) (r : Refusal) : Bool :=
  match step s with
  | .next _ => false
  | .refused x => x == r
  | .fault _ => false

/-! ### Data transfer and addressing -/

theorem test_v2_mov_ax :
    check (vec [0x8B, 0x46, 0] { regs with bp := 0x200 } noFlags
        [(0x20200, 0x11), (0x20201, 0x11), (0x40200, 0xCD), (0x40201, 0xAB)])
      (fun t => t.gpr.ax == 0xABCD && t.ip == 0x103) = true := by decide

theorem test_v8_mov_al :
    check (vec [0x8A, 0x40, 0x80] { regs with bx := 0x100 } noFlags [(0x20080, 0x77)])
      (fun t => t.gpr.ax == 0x77 && t.ip == 0x103) = true := by decide

theorem test_v9_mov_word :
    check (vec [0xC7, 6, 0x34, 0x12, 0x78, 0x56] regs noFlags [])
      (fun t => t.ip == 0x106 && memRead t.mem 0x21234 == 0x78 && memRead t.mem 0x21235 == 0x56) = true := by decide

theorem test_v10_add_bx :
    check (vec [0x83, 0xC3, 0xFF] { regs with bx := 1 } noFlags [])
      (fun t => t.gpr.bx == 0 && t.ip == 0x103 && !t.flags.OF && !t.flags.SF && t.flags.ZF && t.flags.AF &&
        t.flags.PF && t.flags.CF) = true := by decide

theorem test_t1_mov_bx :
    check (vec [0x88, 0x48, 5] { regs with cx := 0x12AB, bx := 0x100, si := 0x10 } noFlags [])
      (fun t => t.ip == 0x103 && memRead t.mem 0x20115 == 0xAB) = true := by decide

theorem test_t3_mov_ah :
    check (vec [0x8A, 0xE0] { regs with ax := 0x42 } noFlags [])
      (fun t => t.gpr.ax == 0x4242 && t.ip == 0x102) = true := by decide

theorem test_t4_mov_ah :
    check (vec [0xB4, 0x7F] { regs with ax := 0x1234 } noFlags [])
      (fun t => t.gpr.ax == 0x7F34 && t.ip == 0x102) = true := by decide

theorem test_t6_mov_ax :
    check (vec [0xA1, 0, 2] regs noFlags [(0x20200, 0xD), (0x20201, 0xF0)])
      (fun t => t.gpr.ax == 0xF00D && t.ip == 0x103) = true := by decide

theorem test_t8_mov_ffffh :
    check (vec [0xA3, 0xFF, 0xFF] { regs with ax := 0xB6A5 } noFlags [])
      (fun t => t.ip == 0x103 && memRead t.mem 0x20000 == 0xB6 && memRead t.mem 0x2FFFF == 0xA5) = true := by decide

theorem test_t9_mov_ds :
    check (vec [0x8E, 0xD8] { regs with ax := 0x5000 } noFlags [])
      (fun t => t.sregs.ds == 0x5000 && t.ip == 0x102 && !t.delay) = true := by decide

theorem test_t10_mov_ax :
    check (vec [0x8C, 0xC8] regs noFlags [])
      (fun t => t.gpr.ax == 0x1000 && t.ip == 0x102) = true := by decide

theorem test_t12_push_sp :
    check (vec [0x54] { regs with sp := 0x100 } noFlags [])
      (fun t => t.gpr.sp == 0xFE && t.ip == 0x101 && memRead t.mem 0x400FE == 0xFE) = true := by decide

theorem test_t13_pop_sp :
    check (vec [0x5C] { regs with sp := 0x100 } noFlags [(0x40101, 0x20)])
      (fun t => t.gpr.sp == 0x2000 && t.ip == 0x101) = true := by decide

theorem test_t15_push_ds :
    check (vec [0x1E] { regs with sp := 0x100 } noFlags [])
      (fun t => t.gpr.sp == 0xFE && t.ip == 0x101 && memRead t.mem 0x400FF == 0x20) = true := by decide

theorem test_t16_pop_es :
    check (vec [7] { regs with sp := 0xFE } noFlags [(0x400FF, 0x60)])
      (fun t => t.gpr.sp == 0x100 && t.sregs.es == 0x6000 && t.ip == 0x101) = true := by decide

theorem test_t17_push_word :
    check (vec [0xFF, 0x37] { regs with bx := 0x40, sp := 0x100 } noFlags [(0x20040, 0x21), (0x20041, 0x43)])
      (fun t => t.gpr.sp == 0xFE && t.ip == 0x102 && memRead t.mem 0x400FE == 0x21 && memRead t.mem 0x400FF == 0x43) = true := by decide

theorem test_t18_pop_word :
    check (vec [0x8F, 7] { regs with bx := 0x40, sp := 0xFE } noFlags [(0x400FE, 0x65), (0x400FF, 0x87)])
      (fun t => t.gpr.sp == 0x100 && t.ip == 0x102 && memRead t.mem 0x20040 == 0x65 && memRead t.mem 0x20041 == 0x87) = true := by decide

theorem test_t19_xchg_bx :
    check (vec [0x87, 0xD9] { regs with cx := 0x2222, bx := 0x1111 } noFlags [])
      (fun t => t.gpr.cx == 0x1111 && t.gpr.bx == 0x2222 && t.ip == 0x102) = true := by decide

theorem test_t21_xchg_ax :
    check (vec [0x93] { regs with ax := 1, bx := 2 } noFlags [])
      (fun t => t.gpr.ax == 2 && t.gpr.bx == 1 && t.ip == 0x101) = true := by decide

theorem test_t23_in_al :
    check { vec [0xE4, 0x60] regs noFlags [] with ports := [(0x60, 0x1C)] }
      (fun t => t.gpr.ax == 0x1C && t.ip == 0x102) = true := by decide

theorem test_t24_in_ax :
    check { vec [0xED] { regs with dx := 0xFFFF } noFlags [] with ports := [(0xFFFF, 0x34), (0, 0x12)] }
      (fun t => t.gpr.ax == 0x1234 && t.ip == 0x101) = true := by decide

theorem test_t25_out_61h :
    check (vec [0xE6, 0x61] { regs with ax := 3 } noFlags [])
      (fun t => t.ip == 0x102 && t.busLog == [.io 0x61 3]) = true := by decide

theorem test_t26_out_dx :
    check (vec [0xEF] { regs with ax := 0xBBAA, dx := 0x3F8 } noFlags [])
      (fun t => t.ip == 0x101 && t.busLog == [.io 0x3F8 0xAA, .io 0x3F9 0xBB]) = true := by decide

theorem test_t28_xlat :
    check (vec [0xD7] { regs with ax := 2, bx := 0xFFFF } noFlags [(0x20001, 0x9C)])
      (fun t => t.gpr.ax == 0x9C && t.ip == 0x101) = true := by decide

theorem test_t29_lea_ax :
    check (vec [0x8D, 0x40, 0x10] { regs with bx := 0xFFF8, si := 0x10 } noFlags [])
      (fun t => t.gpr.ax == 0x18 && t.ip == 0x103) = true := by decide

theorem test_t30_lds_si :
    check (vec [0xC5, 0x37] { regs with bx := 0x40 } noFlags [(0x20040, 0x78), (0x20041, 0x56), (0x20043, 0x70)])
      (fun t => t.gpr.si == 0x5678 && t.sregs.ds == 0x7000 && t.ip == 0x102) = true := by decide

theorem test_t31_les_di :
    check (vec [0xC4, 0x7F, 4] { regs with bx := 0x40 } noFlags [(0x20044, 0x10), (0x20047, 0xB8)])
      (fun t => t.gpr.di == 0x10 && t.sregs.es == 0xB800 && t.ip == 0x103) = true := by decide

theorem test_t32_lahf :
    check (vec [0x9F] regs { noFlags with CF := true, AF := true, SF := true } [])
      (fun t => t.gpr.ax == 0x9300 && t.ip == 0x101) = true := by decide

theorem test_t33_sahf :
    check (vec [0x9E] { regs with ax := 0xD500 } { noFlags with OF := true } [])
      (fun t => t.ip == 0x101 && t.flags.OF && t.flags.SF && t.flags.ZF && t.flags.AF && t.flags.PF && t.flags.CF) = true := by decide

theorem test_t34_pushf :
    check (vec [0x9C] { regs with sp := 0x100 } { noFlags with CF := true, ZF := true, IF := true, OF := true } [])
      (fun t => t.gpr.sp == 0xFE && t.ip == 0x101 && memRead t.mem 0x400FE == 0x43 && memRead t.mem 0x400FF == 0xFA) = true := by decide

theorem test_t35_popf :
    check (vec [0x9D] { regs with sp := 0xFE } noFlags [(0x400FE, 0xD7), (0x400FF, 0xA)])
      (fun t => t.gpr.sp == 0x100 && t.ip == 0x101 && t.flags.OF && !t.flags.DF && t.flags.IF && !t.flags.TF &&
        t.flags.SF && t.flags.ZF && t.flags.AF && t.flags.PF && t.flags.CF) = true := by decide

theorem test_m1_mov_al :
    check { vec [0x8A, 7] { regs with bx := 0x10 } noFlags [(0, 0x5C)] with sregs := segments 0x1000 0x4000 0xFFFF }
      (fun t => t.gpr.ax == 0x5C && t.ip == 0x102) = true := by decide


/-! ### Arithmetic -/

theorem test_a1_add_ax :
    check (vec [1, 0xD8] { regs with ax := 0x7FFF, bx := 1 } noFlags [])
      (fun t => t.gpr.ax == 0x8000 && t.ip == 0x102 && t.flags.OF && t.flags.SF && !t.flags.ZF && t.flags.AF &&
        t.flags.PF && !t.flags.CF) = true := by decide

theorem test_a4_add_ax :
    check (vec [5, 1, 0] { regs with ax := 0xFFFF } noFlags [])
      (fun t => t.gpr.ax == 0 && t.ip == 0x103 && !t.flags.OF && !t.flags.SF && t.flags.ZF && t.flags.AF &&
        t.flags.PF && t.flags.CF) = true := by decide

theorem test_a5_add_byte :
    check (vec [0x80, 7, 0x10] { regs with bx := 0x40 } noFlags [(0x20040, 0xF8)])
      (fun t => t.ip == 0x103 && !t.flags.OF && !t.flags.SF && !t.flags.ZF && !t.flags.AF && !t.flags.PF &&
        t.flags.CF && memRead t.mem 0x20040 == 8) = true := by decide

theorem test_a7_adc_al :
    check (vec [0x10, 0xD8] { regs with ax := 0xFF } { noFlags with CF := true } [])
      (fun t => t.gpr.ax == 0 && t.ip == 0x102 && !t.flags.OF && !t.flags.SF && t.flags.ZF && t.flags.AF &&
        t.flags.PF && t.flags.CF) = true := by decide

theorem test_a8_adc_al :
    check (vec [0x14, 0xF] regs { noFlags with CF := true } [])
      (fun t => t.gpr.ax == 0x10 && t.ip == 0x102 && !t.flags.OF && !t.flags.SF && !t.flags.ZF && t.flags.AF &&
        !t.flags.PF && !t.flags.CF) = true := by decide

theorem test_a9_inc_al :
    check (vec [0xFE, 0xC0] { regs with ax := 0xFF } noFlags [])
      (fun t => t.gpr.ax == 0 && t.ip == 0x102 && !t.flags.OF && !t.flags.SF && t.flags.ZF && t.flags.AF &&
        t.flags.PF && !t.flags.CF) = true := by decide

theorem test_a10_inc_ax :
    check (vec [0x40] { regs with ax := 0x7FFF } { noFlags with CF := true } [])
      (fun t => t.gpr.ax == 0x8000 && t.ip == 0x101 && t.flags.OF && t.flags.SF && !t.flags.ZF && t.flags.AF &&
        t.flags.PF && t.flags.CF) = true := by decide

theorem test_a13_sub_al :
    check (vec [0x28, 0xD8] { regs with ax := 0x80, bx := 1 } noFlags [])
      (fun t => t.gpr.ax == 0x7F && t.ip == 0x102 && t.flags.OF && !t.flags.SF && !t.flags.ZF && t.flags.AF &&
        !t.flags.PF && !t.flags.CF) = true := by decide

theorem test_a14_sub_ax :
    check (vec [0x2D, 0x34, 0x12] { regs with ax := 0x1234 } noFlags [])
      (fun t => t.gpr.ax == 0 && t.ip == 0x103 && !t.flags.OF && !t.flags.SF && t.flags.ZF && !t.flags.AF &&
        t.flags.PF && !t.flags.CF) = true := by decide

theorem test_a16_sbb_al :
    check (vec [0x18, 0xD8] { regs with bx := 0xFF } { noFlags with CF := true } [])
      (fun t => t.ip == 0x102 && !t.flags.OF && !t.flags.SF && t.flags.ZF && t.flags.AF && t.flags.PF && t.flags.CF) = true := by decide

theorem test_a17_dec_ax :
    check (vec [0x48] regs noFlags [])
      (fun t => t.gpr.ax == 0xFFFF && t.ip == 0x101 && !t.flags.OF && t.flags.SF && !t.flags.ZF && t.flags.AF &&
        t.flags.PF && !t.flags.CF) = true := by decide

theorem test_a18_dec_al :
    check (vec [0xFE, 0xC8] { regs with ax := 0x80 } noFlags [])
      (fun t => t.gpr.ax == 0x7F && t.ip == 0x102 && t.flags.OF && !t.flags.SF && !t.flags.ZF && t.flags.AF &&
        !t.flags.PF && !t.flags.CF) = true := by decide

theorem test_a20_neg_al :
    check (vec [0xF6, 0xD8] { regs with ax := 0x80 } noFlags [])
      (fun t => t.ip == 0x102 && t.flags.OF && t.flags.SF && !t.flags.ZF && !t.flags.AF && !t.flags.PF && t.flags.CF) = true := by decide

theorem test_a23_cmp_al :
    check (vec [0x3C, 0x80] { regs with ax := 0x7F } noFlags [])
      (fun t => t.ip == 0x102 && t.flags.OF && t.flags.SF && !t.flags.ZF && !t.flags.AF && t.flags.PF && t.flags.CF) = true := by decide

theorem test_a24_cmp_word :
    check (vec [0x83, 0x3E, 0, 2, 0xFF] regs noFlags [(0x20200, 0xFF), (0x20201, 0xFF)])
      (fun t => t.ip == 0x105 && !t.flags.OF && !t.flags.SF && t.flags.ZF && !t.flags.AF && t.flags.PF && !t.flags.CF) = true := by decide

theorem test_a25_aaa :
    check (vec [0x37] { regs with ax := 0x11 } { noFlags with AF := true } [])
      (fun t => t.gpr.ax == 0x107 && t.ip == 0x101 && t.flags.AF && t.flags.CF) = true := by decide

theorem test_a26_aaa :
    check (vec [0x37] { regs with ax := 0xFA } noFlags [])
      (fun t => t.gpr.ax == 0x100 && t.ip == 0x101 && t.flags.AF && t.flags.CF) = true := by decide

theorem test_a28_aas :
    check (vec [0x3F] { regs with ax := 0x20F } noFlags [])
      (fun t => t.gpr.ax == 0x109 && t.ip == 0x101 && t.flags.AF && t.flags.CF) = true := by decide

theorem test_a30_daa :
    check (vec [0x27] { regs with ax := 0x7D } noFlags [])
      (fun t => t.gpr.ax == 0x83 && t.ip == 0x101 && t.flags.SF && !t.flags.ZF && t.flags.AF && !t.flags.PF &&
        !t.flags.CF) = true := by decide

theorem test_a33_das :
    check (vec [0x2F] { regs with ax := 0x4B } { noFlags with AF := true } [])
      (fun t => t.gpr.ax == 0x45 && t.ip == 0x101 && !t.flags.SF && !t.flags.ZF && t.flags.AF && !t.flags.PF &&
        !t.flags.CF) = true := by decide

theorem test_a35_mul_bl :
    check (vec [0xF6, 0xE3] { regs with ax := 0xFF, bx := 0xFF } noFlags [])
      (fun t => t.gpr.ax == 0xFE01 && t.ip == 0x102 && t.flags.OF && t.flags.CF) = true := by decide

theorem test_a37_mul_bx :
    check (vec [0xF7, 0xE3] { regs with ax := 0x8000, dx := 0xFFFF, bx := 2 } noFlags [])
      (fun t => t.gpr.ax == 0 && t.gpr.dx == 1 && t.ip == 0x102 && t.flags.OF && t.flags.CF) = true := by decide

theorem test_a39_imul_bl :
    check (vec [0xF6, 0xEB] { regs with ax := 0xFF, bx := 2 } noFlags [])
      (fun t => t.gpr.ax == 0xFFFE && t.ip == 0x102 && !t.flags.OF && !t.flags.CF) = true := by decide

theorem test_a42_aam :
    check (vec [0xD4, 0xA] { regs with ax := 0x3F } noFlags [])
      (fun t => t.gpr.ax == 0x603 && t.ip == 0x102 && !t.flags.SF && !t.flags.ZF && t.flags.PF) = true := by decide

theorem test_a43_aad :
    check (vec [0xD5, 0xA] { regs with ax := 0x603 } noFlags [])
      (fun t => t.gpr.ax == 0x3F && t.ip == 0x102 && !t.flags.SF && !t.flags.ZF && t.flags.PF) = true := by decide

theorem test_a44_div_bl :
    check (vec [0xF6, 0xF3] { regs with ax := 0x64, bx := 7 } noFlags [])
      (fun t => t.gpr.ax == 0x20E && t.ip == 0x102) = true := by decide

theorem test_a45_div_bx :
    check (vec [0xF7, 0xF3] { regs with dx := 1, bx := 2 } noFlags [])
      (fun t => t.gpr.ax == 0x8000 && t.gpr.dx == 0 && t.ip == 0x102) = true := by decide

theorem test_a46_idiv_bl :
    check (vec [0xF6, 0xFB] { regs with ax := 0xFF9C, bx := 7 } noFlags [])
      (fun t => t.gpr.ax == 0xFEF2 && t.ip == 0x102) = true := by decide

theorem test_a48_cbw :
    check (vec [0x98] { regs with ax := 0x1280 } noFlags [])
      (fun t => t.gpr.ax == 0xFF80 && t.ip == 0x101) = true := by decide

theorem test_a50_cwd :
    check (vec [0x99] { regs with ax := 0x8000, dx := 0x1234 } noFlags [])
      (fun t => t.gpr.dx == 0xFFFF && t.ip == 0x101) = true := by decide


/-! ### Logic -/

theorem test_l1_not_al :
    check (vec [0xF6, 0xD0] { regs with ax := 0x55 } { noFlags with CF := true, ZF := true } [])
      (fun t => t.gpr.ax == 0xAA && t.ip == 0x102) = true := by decide

theorem test_l2_and_ax :
    check (vec [0x21, 0xD8] { regs with ax := 0xF0F0, bx := 0x3C3C } { noFlags with CF := true, OF := true } [])
      (fun t => t.gpr.ax == 0x3030 && t.ip == 0x102 && !t.flags.OF && !t.flags.SF && !t.flags.ZF && t.flags.PF &&
        !t.flags.CF) = true := by decide

theorem test_l3_and_al :
    check (vec [0x24, 0xF] { regs with ax := 0xF0 } noFlags [])
      (fun t => t.gpr.ax == 0 && t.ip == 0x102 && !t.flags.OF && !t.flags.SF && t.flags.ZF && t.flags.PF &&
        !t.flags.CF) = true := by decide

theorem test_l5_or_byte :
    check (vec [0x80, 0xF, 0x80] { regs with bx := 0x40 } noFlags [(0x20040, 1)])
      (fun t => t.ip == 0x103 && !t.flags.OF && t.flags.SF && !t.flags.ZF && t.flags.PF && !t.flags.CF &&
        memRead t.mem 0x20040 == 0x81) = true := by decide

theorem test_l6_xor_ax :
    check (vec [0x31, 0xC0] { regs with ax := 0x1234 } { noFlags with CF := true } [])
      (fun t => t.gpr.ax == 0 && t.ip == 0x102 && !t.flags.OF && !t.flags.SF && t.flags.ZF && t.flags.PF &&
        !t.flags.CF) = true := by decide

theorem test_l7_xor_al :
    check (vec [0x34, 0xFF] { regs with ax := 0xAA } noFlags [])
      (fun t => t.gpr.ax == 0x55 && t.ip == 0x102 && !t.flags.OF && !t.flags.SF && !t.flags.ZF && t.flags.PF &&
        !t.flags.CF) = true := by decide

theorem test_l8_test_ax :
    check (vec [0x85, 0xC0] regs { noFlags with CF := true } [])
      (fun t => t.ip == 0x102 && !t.flags.OF && !t.flags.SF && t.flags.ZF && t.flags.PF && !t.flags.CF) = true := by decide

theorem test_l9_test_bl :
    check (vec [0xF6, 0xC3, 0x80] { regs with bx := 0x90 } noFlags [])
      (fun t => t.ip == 0x103 && !t.flags.OF && t.flags.SF && !t.flags.ZF && !t.flags.PF && !t.flags.CF) = true := by decide

theorem test_l15_shl_ax :
    check (vec [0xD3, 0xE0] { regs with ax := 0x1234 } { noFlags with CF := true, ZF := true, OF := true } [])
      (fun t => t.ip == 0x102 && t.flags.OF && !t.flags.SF && t.flags.ZF && !t.flags.PF && t.flags.CF) = true := by decide

theorem test_l16_shr_al :
    check (vec [0xD0, 0xE8] { regs with ax := 0x81 } noFlags [])
      (fun t => t.gpr.ax == 0x40 && t.ip == 0x102 && t.flags.OF && !t.flags.SF && !t.flags.ZF && !t.flags.PF &&
        t.flags.CF) = true := by decide

theorem test_l18_sar_ax :
    check (vec [0xD1, 0xF8] { regs with ax := 0x8001 } noFlags [])
      (fun t => t.gpr.ax == 0xC000 && t.ip == 0x102 && !t.flags.OF && t.flags.SF && !t.flags.ZF && t.flags.PF &&
        t.flags.CF) = true := by decide

theorem test_l20_rol_al :
    check (vec [0xD0, 0xC0] { regs with ax := 0x81 } { noFlags with ZF := true } [])
      (fun t => t.gpr.ax == 3 && t.ip == 0x102 && t.flags.OF && t.flags.ZF && t.flags.CF) = true := by decide

theorem test_l21_rol_al :
    check (vec [0xD2, 0xC0] { regs with ax := 0x81, cx := 8 } noFlags [])
      (fun t => t.ip == 0x102 && t.flags.CF) = true := by decide

theorem test_l22_ror_al :
    check (vec [0xD0, 0xC8] { regs with ax := 1 } noFlags [])
      (fun t => t.gpr.ax == 0x80 && t.ip == 0x102 && t.flags.OF && t.flags.CF) = true := by decide

theorem test_l23_rcl_al :
    check (vec [0xD0, 0xD0] { regs with ax := 0x80 } noFlags [])
      (fun t => t.gpr.ax == 0 && t.ip == 0x102 && t.flags.OF && t.flags.CF) = true := by decide

theorem test_l25_rcr_al :
    check (vec [0xD0, 0xD8] { regs with ax := 1 } { noFlags with CF := true } [])
      (fun t => t.gpr.ax == 0x80 && t.ip == 0x102 && t.flags.OF && t.flags.CF) = true := by decide


/-! ### Strings -/

theorem test_s1_movsb :
    check (vec [0xA4] { regs with si := 0x10, di := 0x20 } noFlags [(0x20010, 0x5A)])
      (fun t => t.gpr.si == 0x11 && t.gpr.di == 0x21 && t.ip == 0x101 && memRead t.mem 0x30020 == 0x5A) = true := by decide

theorem test_s9_lodsb :
    check (vec [0xAC] { regs with ax := 0xFF00, si := 0x10 } noFlags [(0x20010, 0x42)])
      (fun t => t.gpr.ax == 0xFF42 && t.gpr.si == 0x11 && t.ip == 0x101) = true := by decide

theorem test_s11_cmpsb :
    check (vec [0xA6] { regs with si := 0x10, di := 0x20 } noFlags [(0x20010, 1), (0x30020, 2)])
      (fun t => t.gpr.si == 0x11 && t.gpr.di == 0x21 && t.ip == 0x101 && !t.flags.OF && t.flags.SF && !t.flags.ZF &&
        t.flags.AF && t.flags.PF && t.flags.CF) = true := by decide

theorem test_s16_scasw :
    check (vec [0xAF] { regs with ax := 0x1000, di := 0x20 } noFlags [(0x30020, 1), (0x30021, 0x10)])
      (fun t => t.gpr.di == 0x22 && t.ip == 0x101 && !t.flags.OF && t.flags.SF && !t.flags.ZF && t.flags.AF &&
        t.flags.PF && t.flags.CF) = true := by decide


/-! ### Control transfer -/

theorem test_j5_jmp_near :
    check (vec [0xE9, 0, 0xF0] regs noFlags [])
      (fun t => t.ip == 0xF103) = true := by decide

theorem test_j6_jmp_bx :
    check (vec [0xFF, 0xE3] { regs with bx := 0x1234 } noFlags [])
      (fun t => t.ip == 0x1234) = true := by decide

theorem test_j8_jmp_far :
    check (vec [0xEA, 0, 2, 0, 0x50] regs noFlags [])
      (fun t => t.sregs.cs == 0x5000 && t.ip == 0x200) = true := by decide

theorem test_j10_call_near :
    check (vec [0xE8, 0x10, 0] { regs with sp := 0x100 } noFlags [])
      (fun t => t.gpr.sp == 0xFE && t.ip == 0x113 && memRead t.mem 0x400FE == 3 && memRead t.mem 0x400FF == 1) = true := by decide

theorem test_j12_call_sp :
    check (vec [0xFF, 0xD4] { regs with sp := 0x100 } noFlags [])
      (fun t => t.gpr.sp == 0xFE && t.ip == 0x100 && memRead t.mem 0x400FE == 2 && memRead t.mem 0x400FF == 1) = true := by decide

theorem test_j13_call_far :
    check (vec [0x9A, 0, 2, 0, 0x50] { regs with sp := 0x100 } noFlags [])
      (fun t => t.gpr.sp == 0xFC && t.sregs.cs == 0x5000 && t.ip == 0x200 && memRead t.mem 0x400FC == 5 &&
        memRead t.mem 0x400FD == 1 && memRead t.mem 0x400FF == 0x10) = true := by decide

theorem test_j15_ret :
    check (vec [0xC3] { regs with sp := 0xFE } noFlags [(0x400FE, 3), (0x400FF, 1)])
      (fun t => t.gpr.sp == 0x100 && t.ip == 0x103) = true := by decide

theorem test_j16_ret_4 :
    check (vec [0xC2, 4, 0] { regs with sp := 0xFE } noFlags [(0x400FE, 3), (0x400FF, 1)])
      (fun t => t.gpr.sp == 0x104 && t.ip == 0x103) = true := by decide

theorem test_j18_retf_2 :
    check (vec [0xCA, 2, 0] { regs with sp := 0xFC } noFlags [(0x400FC, 5), (0x400FD, 1), (0x400FF, 0x70)])
      (fun t => t.gpr.sp == 0x102 && t.sregs.cs == 0x7000 && t.ip == 0x105) = true := by decide

theorem test_j20_je_16 :
    check (vec [0x74, 0x10] regs { noFlags with ZF := true } [])
      (fun t => t.ip == 0x112) = true := by decide

theorem test_j22_jl_16 :
    check (vec [0x7C, 0x10] regs { noFlags with SF := true } [])
      (fun t => t.ip == 0x112) = true := by decide

theorem test_j26_jbe_16 :
    check (vec [0x76, 0x10] regs noFlags [])
      (fun t => t.ip == 0x102) = true := by decide

theorem test_j27_jnbe_16 :
    check (vec [0x77, 0x10] regs noFlags [])
      (fun t => t.ip == 0x112) = true := by decide

theorem test_j28_jb_16 :
    check (vec [0x72, 0x10] regs { noFlags with CF := true } [])
      (fun t => t.ip == 0x112) = true := by decide

theorem test_j29_jp_16 :
    check (vec [0x7A, 0x10] regs { noFlags with PF := true } [])
      (fun t => t.ip == 0x112) = true := by decide

theorem test_j31_jns_16 :
    check (vec [0x79, 0x10] regs noFlags [])
      (fun t => t.ip == 0x112) = true := by decide

theorem test_j33_loop :
    check (vec [0xE2, 0xFE] { regs with cx := 1 } noFlags [])
      (fun t => t.gpr.cx == 0 && t.ip == 0x102) = true := by decide

theorem test_j34_loop :
    check (vec [0xE2, 0xFE] regs noFlags [])
      (fun t => t.gpr.cx == 0xFFFF && t.ip == 0x100) = true := by decide

theorem test_j35_loopz :
    check (vec [0xE1, 0xFE] { regs with cx := 5 } noFlags [])
      (fun t => t.gpr.cx == 4 && t.ip == 0x102) = true := by decide

theorem test_j39_jcxz_16 :
    check (vec [0xE3, 0x10] regs noFlags [])
      (fun t => t.ip == 0x112) = true := by decide

theorem test_j41_int_21h :
    check (vec [0xCD, 0x21] { regs with sp := 0x100 } { noFlags with CF := true, IF := true } [(0x85, 4), (0x87, 0xF0)])
      (fun t => t.gpr.sp == 0xFA && t.sregs.cs == 0xF000 && t.ip == 0x400 && !t.flags.IF &&
        memRead t.mem 0x400FA == 2 && memRead t.mem 0x400FB == 1 && memRead t.mem 0x400FD == 0x10 &&
        memRead t.mem 0x400FE == 3 && memRead t.mem 0x400FF == 0xF2) = true := by decide

theorem test_j42_int_3 :
    check (vec [0xCC] { regs with sp := 0x100 } { noFlags with IF := true } [(0xD, 3), (0xF, 0xF0)])
      (fun t => t.gpr.sp == 0xFA && t.sregs.cs == 0xF000 && t.ip == 0x300 && !t.flags.IF &&
        memRead t.mem 0x400FA == 1 && memRead t.mem 0x400FB == 1 && memRead t.mem 0x400FD == 0x10 &&
        memRead t.mem 0x400FE == 2 && memRead t.mem 0x400FF == 0xF2) = true := by decide

theorem test_j43_into :
    check (vec [0xCE] { regs with sp := 0x100 } noFlags [(0x10, 0x40), (0x11, 3), (0x13, 0xF0)])
      (fun t => t.ip == 0x101) = true := by decide

theorem test_j44_into :
    check (vec [0xCE] { regs with sp := 0x100 } { noFlags with IF := true, OF := true }
        [(0x10, 0x40), (0x11, 3), (0x13, 0xF0)])
      (fun t => t.gpr.sp == 0xFA && t.sregs.cs == 0xF000 && t.ip == 0x340 && !t.flags.IF &&
        memRead t.mem 0x400FA == 1 && memRead t.mem 0x400FB == 1 && memRead t.mem 0x400FD == 0x10 &&
        memRead t.mem 0x400FE == 2 && memRead t.mem 0x400FF == 0xFA) = true := by decide

theorem test_j46_iret :
    check (vec [0xCF] { regs with sp := 0xFA } noFlags [(0x400FA, 2), (0x400FB, 1), (0x400FD, 0x10), (0x400FE, 0xD7),
        (0x400FF, 0xF)])
      (fun t => t.gpr.sp == 0x100 && t.ip == 0x102 && t.flags.OF && t.flags.DF && t.flags.IF && t.flags.TF &&
        t.flags.SF && t.flags.ZF && t.flags.AF && t.flags.PF && t.flags.CF) = true := by decide


/-! ### Processor control -/

theorem test_p1_clc :
    check (vec [0xF8] regs { noFlags with CF := true } [])
      (fun t => t.ip == 0x101 && !t.flags.CF) = true := by decide

theorem test_p4_stc :
    check (vec [0xF9] regs noFlags [])
      (fun t => t.ip == 0x101 && t.flags.CF) = true := by decide

theorem test_p5_cld :
    check (vec [0xFC] regs { noFlags with DF := true } [])
      (fun t => t.ip == 0x101 && !t.flags.DF) = true := by decide

theorem test_p6_std :
    check (vec [0xFD] regs noFlags [])
      (fun t => t.ip == 0x101 && t.flags.DF) = true := by decide

theorem test_p7_cli :
    check (vec [0xFA] regs { noFlags with IF := true } [])
      (fun t => t.ip == 0x101 && !t.flags.IF) = true := by decide

theorem test_p8_sti :
    check (vec [0xFB] regs noFlags [])
      (fun t => t.ip == 0x101 && t.flags.IF) = true := by decide

theorem test_p10_hlt :
    check (vec [0xF4] regs { noFlags with IF := true } [])
      (fun t => t.ip == 0x101 && t.halted) = true := by decide

theorem test_p14_esc_1 :
    check (vec [0xD9, 6, 0, 2] regs noFlags [(0x20200, 0x11), (0x20201, 0x22)])
      (fun t => t.ip == 0x104) = true := by decide

theorem test_p17_wait_with :
    check (vec [0x9B] regs noFlags [])
      (fun t => t.ip == 0x101) = true := by decide

theorem test_p18_wait_with :
    check { vec [0x9B] regs noFlags [] with pins := levels false false }
      (fun t => t.ip == 0x100 && t.waiting) = true := by decide


/-! ### Interrupts -/

theorem test_i1_nop_with :
    check { vec [0x90] { regs with sp := 0x100 } { noFlags with CF := true }
        [(9, 5), (0xB, 0xF0)] with nmiLatch := true }
      (fun t => t.gpr.sp == 0xFA && t.sregs.cs == 0xF000 && t.ip == 0x500 && memRead t.mem 0x400FA == 1 &&
        memRead t.mem 0x400FB == 1 && memRead t.mem 0x400FD == 0x10 && memRead t.mem 0x400FE == 3 &&
        memRead t.mem 0x400FF == 0xF0) = true := by decide

theorem test_i2_nop_with :
    check { vec [0x90] { regs with sp := 0x100 } { noFlags with IF := true }
        [(0x81, 6), (0x83, 0xF0)] with pins := levels true true }
      (fun t => t.gpr.sp == 0xFA && t.sregs.cs == 0xF000 && t.ip == 0x600 && !t.flags.IF &&
        memRead t.mem 0x400FA == 1 && memRead t.mem 0x400FB == 1 && memRead t.mem 0x400FD == 0x10 &&
        memRead t.mem 0x400FE == 2 && memRead t.mem 0x400FF == 0xF2) = true := by decide

theorem test_i5_nop_with :
    check (vec [0x90] { regs with sp := 0x100 } { noFlags with TF := true, IF := true } [(4, 0x80), (5, 4), (7, 0xF0)])
      (fun t => t.gpr.sp == 0xFA && t.sregs.cs == 0xF000 && t.ip == 0x480 && !t.flags.IF && !t.flags.TF &&
        memRead t.mem 0x400FA == 1 && memRead t.mem 0x400FB == 1 && memRead t.mem 0x400FD == 0x10 &&
        memRead t.mem 0x400FE == 2 && memRead t.mem 0x400FF == 0xF3) = true := by decide

theorem test_i6_nop_with :
    check { vec [0x90] { regs with sp := 0x100 } { noFlags with TF := true, IF := true }
        [(4, 0x80), (5, 4), (7, 0xF0), (0x81, 6), (0x83, 0xF0)] with pins := levels true true }
      (fun t => t.gpr.sp == 0xF4 && t.sregs.cs == 0xF000 && t.ip == 0x480 && !t.flags.IF && !t.flags.TF &&
        memRead t.mem 0x400F5 == 6 && memRead t.mem 0x400F7 == 0xF0 && memRead t.mem 0x400F8 == 2 &&
        memRead t.mem 0x400F9 == 0xF0 && memRead t.mem 0x400FA == 1 && memRead t.mem 0x400FB == 1 &&
        memRead t.mem 0x400FD == 0x10 && memRead t.mem 0x400FE == 2 && memRead t.mem 0x400FF == 0xF3) = true := by decide

theorem test_i7_int_21h :
    check { vec [0xCD, 0x21] { regs with sp := 0x100 } { noFlags with IF := true }
        [(9, 5), (0xB, 0xF0), (0x85, 4), (0x87, 0xF0)] with nmiLatch := true }
      (fun t => t.gpr.sp == 0xF4 && t.sregs.cs == 0xF000 && t.ip == 0x500 && !t.flags.IF &&
        memRead t.mem 0x400F5 == 4 && memRead t.mem 0x400F7 == 0xF0 && memRead t.mem 0x400F8 == 2 &&
        memRead t.mem 0x400F9 == 0xF0 && memRead t.mem 0x400FA == 2 && memRead t.mem 0x400FB == 1 &&
        memRead t.mem 0x400FD == 0x10 && memRead t.mem 0x400FE == 2 && memRead t.mem 0x400FF == 0xF2) = true := by decide

theorem test_i8_int_1 :
    check (vec [0xCD, 1] { regs with sp := 0x100 } { noFlags with TF := true } [(4, 0x80), (5, 4), (7, 0xF0)])
      (fun t => t.gpr.sp == 0xF4 && t.sregs.cs == 0xF000 && t.ip == 0x480 && !t.flags.TF &&
        memRead t.mem 0x400F4 == 0x80 && memRead t.mem 0x400F5 == 4 && memRead t.mem 0x400F7 == 0xF0 &&
        memRead t.mem 0x400F8 == 2 && memRead t.mem 0x400F9 == 0xF0 && memRead t.mem 0x400FA == 2 &&
        memRead t.mem 0x400FB == 1 && memRead t.mem 0x400FD == 0x10 && memRead t.mem 0x400FE == 2 &&
        memRead t.mem 0x400FF == 0xF1) = true := by decide

theorem test_i12_idiv_bx :
    check (vec [0xF7, 0xFB] { regs with ax := 0x8001, dx := 0xFFFF, bx := 1, sp := 0x100 } noFlags [(1, 4), (3, 0xF0)])
      (fun t => t.gpr.dx == 0 && t.ip == 0x102) = true := by decide

/-! ### Refusals (R119, R159, R430) -/

theorem test_v11_pop_cs : refusedAs (vec [0x0F] regs noFlags []) (.reservedEncoding "reserved__0FH__would_be_POP_CS") = true := by decide

theorem test_v17_push_sp : refusedAs (vec [0xFF, 0xF4] regs noFlags []) .pushSpOperand = true := by decide

theorem test_v18_rep_nop :
    refusedAs { vec [0x90] regs noFlags [] with pfx := { Prefixes.none with rep := some true } }
      .repeatBeforeNonString = true := by decide

/-- U14: the frame at 0000H : 0000H would lie over the pointer of type 0. -/
theorem test_u14_int_0 :
    refusedAs { vec [0xCD, 0] { regs with sp := 6 } noFlags [] with
      sregs := segments 0x1000 0 0 } .frameOverlapsPointer = true := by decide

/-! ### Prefixes and repetition -/

/-- R47, R116: the last override stays, LOCK stays. -/
theorem test_prefixes :
    check { vec [0x2E] regs noFlags [] with
      pfx := { override := some .es, rep := none, lock := true }, plat := { State.reset.plat with maxMode := true } }
      (fun t => t.pfx == { override := some .cs, rep := none, lock := true } && t.ip == 0x101 && !t.delay) = true := by
  decide

/-- P20: CS: MOV AL, [BX] with the override met. -/
theorem test_p20_override :
    check { vec [0x8A, 7] { regs with bx := 0x40 } noFlags [(0x10040, 0x99)] with
      pfx := { Prefixes.none with override := some .cs } }
      (fun t => t.gpr.ax == 0x99 && t.pfx == Prefixes.none) = true := by decide

/-- R292: one element of REP STOSW, two left. -/
theorem test_rep_stosw :
    check { vec [0xAB] { regs with ax := 0xBEEF, cx := 3, di := 0x20 } noFlags [] with
      pfx := { Prefixes.none with rep := some true } }
      (fun t => t.gpr.cx == 2 && t.gpr.di == 0x22 && memRead t.mem 0x30020 == 0xEF && t.running == some (.stos .word) &&
        t.pfx.rep == some true) = true := by decide

/-- S17: an NMI between two elements of REP MOVSB saves the offset of the prefix byte. -/
theorem test_s17_nmi_in_rep :
    check { vec [0xF3, 0xA4] { regs with cx := 3, sp := 0x100, si := 0x10, di := 0x20 } { noFlags with IF := true }
        [(8, 0), (9, 5), (0xA, 0), (0xB, 0xF0), (0x20010, 1), (0x20011, 2)] with
      ip := 0x101, pfx := { Prefixes.none with rep := some true }, nmiLatch := true }
      (fun t => t.gpr.cx == 2 && t.gpr.sp == 0xFA && t.gpr.si == 0x11 && t.ip == 0x500 && t.sregs.cs == 0xF000 &&
        memRead t.mem 0x400FA == 0 && memRead t.mem 0x400FB == 1 && memRead t.mem 0x30020 == 1) = true := by decide

/-- P11: the halt state is left by INTR with IF = 1. -/
theorem test_p11_halt_wakes :
    check { vec [] { regs with sp := 0x100 } { noFlags with IF := true } [(0x80, 0), (0x81, 6), (0x83, 0xF0)] with
      halted := true, ip := 0x101
      pins := levels true true }
      (fun t => !t.halted && t.ip == 0x600 && t.sregs.cs == 0xF000 && memRead t.mem 0x400FA == 1 &&
        memRead t.mem 0x400FB == 1) = true := by decide

/-- M6: RESET goes LOW. -/
theorem test_m6_reset :
    check { vec [] regs { noFlags with IF := true, CF := true } [] with
      pins := { State.reset.pins with reset := true }
      inputs := [{ pins := State.reset.pins, nmiEdge := false, busWrites := [], portUpdates := [] }] }
      (fun t => t.sregs == State.reset.sregs && t.ip == 0 && t.flags == Flags.clear && !t.halted) = true := by decide

/-- R71, R484: another master adds 5 to the location between the read and the write of INC BYTE [0040H]; its write is lost. -/
theorem test_write_between_read_and_write :
    check { vec [0xFE, 6, 0x40, 0] regs noFlags [(0x20040, 1)] with busQueue := [[], [], [(0x20040, 6)]] }
      (fun t => memRead t.mem 0x20040 == 2 && t.busQueue == []) = true := by decide

/-- R82: with LOCK in maximum mode the same write waits. -/
theorem test_lock_holds_masters_off :
    check { vec [0xFE, 6, 0x40, 0] regs noFlags [(0x20040, 1)] with
      pfx := { Prefixes.none with lock := true }, plat := { State.reset.plat with maxMode := true }
      busQueue := [[(0x20040, 6)]] }
      (fun t => memRead t.mem 0x20040 == 2 && t.busQueue == [[(0x20040, 6)]]) = true := by decide

/-- R80: LDS reads its second word after another master has written it. -/
theorem test_write_between_words :
    check { vec [0xC5, 0x1E, 0x40, 0] regs noFlags [(0x20041, 1), (0x20043, 2)] with
      busQueue := [[], [], [(0x20041, 7), (0x20043, 8)]] }
      (fun t => t.gpr.bx == 0x100 && t.sregs.ds == 0x800) = true := by decide

/-- D25: an NMI while LOCK WAIT waits saves the offset of the LOCK; the waiting turn takes IP from `start`. -/
theorem test_nmi_in_wait :
    check { vec [] { regs with sp := 0x100 } noFlags [(9, 5), (0xB, 0xF0)] with
      waiting := true, start := 0x100, afterWait := 0x102, nmiLatch := true, pins := levels false false }
      (fun t => !t.waiting && t.ip == 0x500 && memRead t.mem 0x400FA == 0 && memRead t.mem 0x400FB == 1) = true := by decide

/-- R416: INT 21H with TF = 1 and an NMI latched; the frames of types 21H, 2 and 1, and the routine of type 1 first. -/
theorem test_int_nmi_single_step :
    check { vec [0xCD, 0x21] { regs with sp := 0x100 } { noFlags with TF := true }
        [(5, 1), (9, 2), (0x85, 3)] with nmiLatch := true }
      (fun t => t.ip == 0x100 && t.gpr.sp == 0xEE && t.read16 0x4000 0xEE == 0x200 && t.read16 0x4000 0xF4 == 0x300 &&
        t.read16 0x4000 0xFA == 0x102) = true := by decide

/-- R425, D26: INTR taken at the end of a POPF that sets TF; no trap follows that POPF. -/
theorem test_popf_sets_tf_intr :
    check { vec [0x9D] { regs with sp := 0xFE } { noFlags with IF := true } [(0x81, 6), (0x400FF, 3)] with
      pins := levels true true }
      (fun t => t.ip == 0x600 && t.gpr.sp == 0xFA) = true := by decide

/-- R425, D26: NMI taken at the end of a POPF that clears TF; one last trap follows it. -/
theorem test_popf_clears_tf_nmi :
    check { vec [0x9D] { regs with sp := 0xFE } { noFlags with TF := true } [(5, 1), (9, 2)] with nmiLatch := true }
      (fun t => t.ip == 0x100 && t.gpr.sp == 0xF4 && t.read16 0x4000 0xF4 == 0x200) = true := by decide

/-- M7: the first instruction after RESET, JMP F000H:0100H at FFFF0H. -/
theorem test_m7_first_instruction :
    check (State.reset.withBytes [0xEA, 0, 1, 0, 0xF0])
      (fun t => t.sregs.cs == 0xF000 && t.ip == 0x100) = true := by decide

/-! ### States that meet the hypotheses of the statements, clause by clause -/

/-- The answer is a next state. -/
def isNext (o : Result) : Bool :=
  match o with
  | .next _ => true
  | .refused _ => false
  | .fault _ => false

/-- A state with a stack at 4000H : 0100H. -/
def stacked : State := vec [0x90] { regs with sp := 0x100 } noFlags []

/-- Input levels with RESET as given. -/
def resetLevel (b : Bool) : Pins := { State.reset.pins with reset := b }

/-- Input levels with INTR HIGH and a type. -/
def request (t : Byte) : Pins := { State.reset.pins with intr := true, intType := t }

theorem witness_StepRunsDecodedInstruction :
    stacked.readyToFetch = true ∧ decode stacked.served.fetchBytes = .ok (.nop, [0, 0, 0, 0, 0]) ∧
      WellFormed .nop = true ∧ stacked.served.busQueue = [] := by decide

theorem witness_DecodeOfEncode : WellFormed (.addRmImm (.mem (.disp16 .bp 0x8000)) (.word 0xFFFF)) = true := by decide

theorem witness_EncodeOfDecode : decode [0x83, 0xC3, 0xFF, 0x90] = .ok (.addRmImmSx (.reg .r011) 0xFF, [0x90]) := by decide

theorem witness_StepKeepsInv : stacked.Inv = true ∧ isNext (step stacked) = true := by decide

/-- A string instruction in progress meets the invariant too. -/
theorem witness_StepKeepsInv_running :
    State.Inv { stacked with
      running := some (.movs .byte), pfx := { Prefixes.none with rep := some true }, gpr := { regs with cx := 1 } } = true :=
  by decide

theorem witness_ResetPin_high :
    ({ stacked with inputs := [⟨resetLevel true, false, [], []⟩] } : State).sampleInputs.pins.reset = true := by decide

theorem witness_ResetPin_low :
    ({ stacked with pins := resetLevel true, inputs := [⟨resetLevel false, false, [], []⟩] } : State).pins.reset = true ∧
      ({ stacked with pins := resetLevel true, inputs := [⟨resetLevel false, false, [], []⟩] } :
        State).sampleInputs.pins.reset = false := by decide

/-- At the end of a segment. -/
theorem witness_ReadAfterWrite :
    stacked.kindOf (phys 0x2000 0xFFFF) = .ram ∧ stacked.kindOf (phys 0x2000 (0xFFFF + 1)) = .ram := by decide

/-- The last offset of R84 and the first beyond it, also of a WAIT that waits; a value that changes, and one that does not. -/
theorem witness_PrefetchedBytes :
    stacked.waiting = false ∧ stacked.mayBePrefetched (phys 0x1000 0x0104) = true ∧
      stacked.mayBePrefetched (phys 0x1000 0x0105) = false ∧ stacked.stale = [] ∧
      stacked.kindOf (phys 0x1000 0x0104) = .ram ∧ memRead stacked.mem (phys 0x1000 0x0104).toNat ≠ 1 ∧
      memRead stacked.mem (phys 0x1000 0x0104).toNat = 0 ∧
      (let s : State := { stacked with waiting := true, afterWait := 0x0102 }
       s.waiting = true ∧ s.mayBePrefetched (phys 0x1000 0x0106) = true ∧
        s.mayBePrefetched (phys 0x1000 0x0101) = false) := by decide

theorem witness_OtherMasters :
    ({ stacked with pfx := { Prefixes.none with lock := true }, plat := { State.reset.plat with maxMode := true } } :
        State).pfx.lock = true ∧ stacked.pfx.lock = false ∧ stacked.busQueue = [] ∧
      ({ stacked with busQueue := [[(0x20040, 5)], []] } : State).busQueue = [(0x20040, 5)] :: [[]] ∧
      ({ stacked with inputs := [⟨resetLevel false, false, [[(0x20040, 5)]], []⟩] } : State).inputs =
        ⟨resetLevel false, false, [[(0x20040, 5)]], []⟩ :: [] := by decide

theorem witness_InOutForms : portLookup [(0xFFFF, 0x34), (0, 0x12)] (0xFFFF + 1) = some 0x12 := by decide

/-- 9AH and 9FH, 05H with AF = 1 and CF = 0 are open; 99H, A0H and 06H are not. -/
theorem witness_DaaDas :
    (daaOpen 0x9A true false && daaOpen 0x9F true false && !daaOpen 0x99 true false && !daaOpen 0xA0 true false &&
      dasOpen 5 true false && !dasOpen 6 true false && !dasOpen 5 true true) = true := by decide

/-- 99 + 99. -/
theorem witness_DecimalAddition :
    (vec [] { regs with ax := 0x99 } noFlags []).gpr.ax.toNat % 256 = 9 * 16 + 9 ∧
      isNext (exec (.addAccImm (.byte (BitVec.ofNat 8 (9 * 16 + 9)))) (vec [] { regs with ax := 0x99 } noFlags [])) = true := by
  decide

/-- Quotients FFH of bytes and FFFFH of words. -/
theorem witness_DivisionCompletes_div :
    (let s := vec [] { regs with ax := 0xFF, bx := 1 } noFlags []
     (s.rmRead .byte (.reg .r011)).toNat ≠ 0 ∧ s.gpr.ax.toNat / (s.rmRead .byte (.reg .r011)).toNat = 255) ∧
      (let s := vec [] { regs with ax := 0xFFFF, bx := 1 } noFlags []
       (s.rmRead .word (.reg .r011)).toNat ≠ 0 ∧
        (s.gpr.dx.toNat * 65536 + s.gpr.ax.toNat) / (s.rmRead .word (.reg .r011)).toNat = 65535) := by decide

/-- Quotients -127 and 127 of bytes, -32767 of words. -/
theorem witness_DivisionCompletes_idiv :
    (let s := vec [] { regs with ax := 0xFF81, bx := 1 } noFlags []
     (s.rmRead .byte (.reg .r011)).toInt ≠ 0 ∧ s.gpr.ax.toInt.tdiv (s.rmRead .byte (.reg .r011)).toInt = -127) ∧
      (let s := vec [] { regs with ax := 0x7F, bx := 1 } noFlags []
       s.gpr.ax.toInt.tdiv (s.rmRead .byte (.reg .r011)).toInt = 127) ∧
      (let s := vec [] { regs with ax := 0x8001, dx := 0xFFFF, bx := 1 } noFlags []
       (s.rmRead .word (.reg .r011)).toInt ≠ 0 ∧
        (s.gpr.dx.toInt * 65536 + s.gpr.ax.toNat).tdiv (s.rmRead .word (.reg .r011)).toInt = -32767) := by decide

/-- A divisor of 0; the quotient 100H of DIV; the quotient -128 of IDIV. -/
theorem witness_DivideErrorTraps :
    stacked.raises (.divRm .byte (.reg .r011)) 0 ∧ stacked.nmiLatch = false ∧ stacked.flags.TF = false ∧
      stacked.frameOverlaps 0 = false ∧ stacked.pointerInMemory 0 = true ∧
      (vec [] { regs with ax := 0x0200, bx := 2, sp := 0x100 } noFlags []).raises (.divRm .byte (.reg .r011)) 0 ∧
      (vec [] { regs with ax := 0xFF80, bx := 1, sp := 0x100 } noFlags []).raises (.idivRm .byte (.reg .r011)) 0 :=
  ⟨.inr (.inr (.inr ⟨rfl, .byte, .reg .r011, .inl ⟨rfl, .inl (by decide)⟩⟩)), by decide, by decide, by decide, by decide,
    .inr (.inr (.inr ⟨rfl, .byte, .reg .r011, .inl ⟨rfl, .inr (by decide)⟩⟩)),
    .inr (.inr (.inr ⟨rfl, .byte, .reg .r011, .inr ⟨rfl, .inr (.inr (by decide))⟩⟩))⟩

/-- A count of 255, and the smallest. -/
theorem witness_ShiftForms_RotateForms :
    (vec [] { regs with cx := 0xFFFF } noFlags []).gpr.cx.toNat % 256 ≠ 0 ∧ (1 : Nat) ≠ 0 := by decide

theorem witness_ShiftByZero :
    (vec [] { regs with cx := 0xFF00 } noFlags []).gpr.cx.toNat % 256 = 0 ∧
      (vec [] { regs with cx := 0xFF00 } noFlags []).busQueue = [] ∧
      (vec [] { regs with cx := 0xFF00 } noFlags []).plat.memMap = [] := by decide

theorem witness_StringMoves_StringCompares :
    stacked.pfx.rep = none ∧ stacked.inMemory .word 0x3000 0xFFFF = true := by decide

theorem witness_RepeatTurn :
    (let s : State := { stacked with pfx := { Prefixes.none with rep := some false } }
     Instr.isString (.scas .byte) = true ∧ s.pfx.rep = some false ∧ s.gpr.cx = 0) ∧
      (let s : State := { stacked with pfx := { Prefixes.none with rep := some false }, gpr := { regs with cx := 1 } }
       Instr.isString (.scas .byte) = true ∧ s.pfx.rep = some false ∧ s.gpr.cx ≠ 0) := by decide

/-- Both ways of a condition. -/
theorem witness_JumpsOnOneFlag : stacked.flags.ZF = false ∧ (!stacked.flags.ZF) = true := by decide

/-- The flags after CMP of 7FH and 80H: equal to none, above, and less are told apart. -/
theorem witness_JumpsAfterCompare :
    (noFlags.afterSub 0x7F#8 0x80#8 false).difference (noFlags.afterSub 0x7F#8 0x80#8 false) 0x7F#8 0x80#8 false :=
  difference_afterSub (noFlags.afterSub 0x7F#8 0x80#8 false) .byte 0x7F#8 0x80#8 false

/-- CX = 0 wraps and jumps, CX = 1 falls through. -/
theorem witness_LoopForms :
    (stacked.gpr.cx ≠ 1 ∧ true = true) ∧ ¬ ((vec [] { regs with cx := 1 } noFlags []).gpr.cx ≠ 1 ∧ true = true) ∧
      stacked.gpr.cx = 0 ∧ (vec [] { regs with cx := 1 } noFlags []).gpr.cx ≠ 0 := by decide

theorem witness_SoftwareInterrupts :
    stacked.flags.OF = false ∧ stacked.raises (.intN 0xFF) 0xFF ∧ stacked.raises .int3 3 ∧ stacked.nmiLatch = false ∧
      stacked.flags.TF = false ∧ stacked.frameOverlaps 0xFF = false ∧ stacked.pointerInMemory 0xFF = true ∧
      ({ stacked with flags := { noFlags with OF := true } } : State).raises .into 4 :=
  ⟨by decide, .inl rfl, .inr (.inl ⟨rfl, rfl⟩), by decide, by decide, by decide, by decide,
    .inr (.inr (.inl ⟨rfl, rfl, rfl⟩))⟩

/-- The lowest frame byte is the pointer's last byte; one place higher it is not. -/
theorem witness_SoftwareInterrupts_overlap :
    ({ stacked with sregs := { es := 0, cs := 0, ss := 0, ds := 0 }, gpr := { regs with sp := 9 } } : State).frameOverlaps 0 = true ∧
      ({ stacked with sregs := { es := 0, cs := 0, ss := 0, ds := 0 }, gpr := { regs with sp := 10 } } :
        State).frameOverlaps 0 = false := by decide

theorem witness_InterruptThenReturn :
    stacked.plat.memMap = [] ∧ stacked.busQueue = [] ∧ stacked.nmiLatch = false ∧ stacked.flags.TF = false ∧
      stacked.frameOverlaps 0 = false := by decide

theorem witness_RecognitionOrder :
    Instr.isPrefix .nop = false ∧ stacked.entered = false ∧ stacked.waiting = false ∧ stacked.running = none ∧
      stacked.delay = false ∧ ({ stacked with delay := true } : State).delay = true ∧
      stacked.frameOverlaps 1 = false ∧ stacked.pointerInMemory 1 = true ∧ stacked.frameOverlaps 2 = false ∧
      stacked.pointerInMemory 2 = true ∧ stacked.flags.TF = false ∧ stacked.nmiLatch = false ∧
      ({ stacked with nmiLatch := true } : State).nmiLatch = true ∧ (stacked.pins.intr && stacked.flags.IF) = false := by
  decide

/-- The clause of INTR, with the highest type. -/
theorem witness_RecognitionOrder_intr :
    (let s : State := { stacked with pins := request 0xFF, flags := { noFlags with IF := true } }
     s.nmiLatch = false ∧ s.pins.intr = true ∧ s.flags.IF = true ∧ s.flags.TF = false ∧
      s.frameOverlaps s.pins.intType = false ∧ s.pointerInMemory s.pins.intType = true) := by decide

/-- The clauses of a repeated string instruction, of a turn of WAIT and of an instruction with prefixes. -/
theorem witness_RecognitionOrder_running :
    ({ stacked with running := some (.movs .byte), nmiLatch := true } : State).running ≠ none ∧
      ({ stacked with waiting := true } : State).waiting = true ∧
      ({ stacked with pfx := { Prefixes.none with lock := true } } : State).running = none := by decide

/-- An NMI, a single step, both; the boundary's two kinds; a WAIT that waits. -/
theorem witness_ChainedInterrupts :
    stacked.plat.memMap = [] ∧ stacked.busQueue = [] ∧ stacked.stackAbovePointers = true ∧ stacked.raises (.intN 0x21) 0x21 ∧
      (let s : State := { stacked with nmiLatch := true }
       s.nmiLatch = true ∧ s.flags.TF = false ∧ s.stackAbovePointers = true) ∧
      (let s : State := { stacked with flags := { noFlags with TF := true } }
       s.nmiLatch = false ∧ s.flags.TF = true ∧ s.stackAbovePointers = true ∧ s.entered = false ∧ s.delay = false ∧
        s.waiting = false) ∧
      (let s : State := { stacked with pins := request 0xFF, flags := { noFlags with TF := true, IF := true } }
       s.nmiLatch = false ∧ (s.pins.intr && s.flags.IF) = true ∧ s.flags.TF = true ∧ s.stackAbovePointers = true) ∧
      (let s : State := { stacked with waiting := true, nmiLatch := true, flags := { noFlags with TF := true } }
       s.nmiLatch = true ∧ s.flags.TF = true ∧ s.stackAbovePointers = true ∧ s.entered = false ∧ s.delay = false) :=
  ⟨by decide, by decide, by decide, .inl rfl, by decide, by decide, by decide, by decide⟩

theorem witness_HaltWake :
    (let s : State := { stacked with halted := true }
     s.halted = true ∧ s.sampleInputs.pins.reset = false ∧ s.pins.reset = false ∧
      (s.served.pins.hold && !s.served.busLocked) = false ∧ s.served.flags.TF = false ∧ s.served.nmiLatch = false ∧
      (s.served.pins.intr && s.served.flags.IF) = false ∧ s.served.frameOverlaps 2 = false ∧
      s.served.pointerInMemory 2 = true ∧ ({ s with nmiLatch := true } : State).served.nmiLatch = true) ∧
    (let s : State := { stacked with halted := true, pins := request 0x20, flags := { noFlags with IF := true } }
     s.sampleInputs.pins.reset = false ∧ s.served.flags.TF = false ∧ s.served.nmiLatch = false ∧
      s.served.pins.intr = true ∧ s.served.flags.IF = true ∧ s.served.frameOverlaps s.served.pins.intType = false ∧
      s.served.pointerInMemory s.served.pins.intType = true) ∧
    (let s : State := { stacked with halted := true, nmiLatch := true, flags := { noFlags with TF := true } }
     s.served.flags.TF = true ∧ s.served.plat.memMap = [] ∧ s.served.busQueue = [] ∧
      s.served.stackAbovePointers = true ∧ s.served.nmiLatch = true) := by decide

/-- A WAIT that waits after a LOCK prefix; and one about to wait, with NMI, with INTR and with neither. -/
theorem witness_WaitTurn :
    (let s : State := { stacked with waiting := true, afterWait := 0x102, pins := { State.reset.pins with testLow := false } }
     s.waiting = true ∧ s.halted = false ∧ s.pfx.rep = none ∧ s.sampleInputs.pins.reset = false ∧ s.pins.reset = false ∧
      (s.served.pins.hold && !s.served.busLocked) = false) ∧
    (let s : State := { stacked with start := 0xFF, pins := { State.reset.pins with testLow := false } }
     s.pins.testLow = false ∧ s.entered = false ∧ s.delay = false ∧ s.running = none ∧ s.flags.TF = false ∧
      s.nmiLatch = false ∧ (s.pins.intr && s.flags.IF) = false ∧ s.frameOverlaps 2 = false ∧
      s.pointerInMemory 2 = true ∧ s.plat.memMap = [] ∧ s.busQueue = [] ∧ s.stackAbovePointers = true ∧
      ({ s with nmiLatch := true } : State).nmiLatch = true) ∧
    (let s : State :=
       { stacked with pins := { request 0x20 with testLow := false }, flags := { noFlags with IF := true } }
     s.pins.testLow = false ∧ s.nmiLatch = false ∧ s.pins.intr = true ∧ s.flags.IF = true ∧ s.flags.TF = false ∧
      s.frameOverlaps s.pins.intType = false ∧ s.pointerInMemory s.pins.intType = true) := by decide

/-- A step with the latch set (one that takes it, with TF 0 and with TF 1), one with it clear, and a sample with an edge. -/
theorem witness_NmiLatch :
    isNext (step { stacked with nmiLatch := true }) = true ∧ isNext (step stacked) = true ∧
      isNext (step { stacked with nmiLatch := true, flags := { noFlags with TF := true } }) = true ∧
      (∀ k < 6, 12 ≤ (phys stacked.sregs.ss (stacked.gpr.sp - 12 + BitVec.ofNat 16 k)).toNat) ∧
      stacked.plat.memMap = [] ∧ stacked.served.busQueue = [] ∧
      stacked.sampleInputs.pins.reset = false ∧ stacked.pins.reset = false ∧
      stacked.sampleInputs.nmiLatch = false ∧ ({ stacked with nmiLatch := true } : State).sampleInputs.nmiLatch = true ∧
      ({ stacked with inputs := [⟨resetLevel false, true, [], []⟩] } : State).inputs =
        ⟨resetLevel false, true, [], []⟩ :: [] := by decide

theorem witness_FlagOperations :
    stacked.delay = false ∧ stacked.flags.IF = false ∧ stacked.entered = false ∧ stacked.running = none ∧
      stacked.waiting = false := by decide

theorem witness_HltWaitEscNop :
    stacked.pins.testLow = true ∧
      ({ stacked with pins := { State.reset.pins with testLow := false } } : State).pins.testLow = false := by decide

theorem witness_PrefixBytes : stacked.entered = false := by decide

theorem witness_ReservedRefused : Instr.isReserved .res82 = true := by decide

theorem witness_SystemStateWriters :
    isNext (exec .sti stacked) = true ∧ Instr.writesCs .sti = false ∧ Instr.canRaise .sti = false ∧
      Instr.loadsFlags .sti = false := by decide

end Sys2Proof.Tests
end

section
/-! PROOFS of 10_state.md (O1, O7): what a step that fetches runs, and the state right after reset. -/

namespace Sys2Proof.Machine
open Sys2Proof

/-! ### The state an instruction executes in -/

/-- IP goes past the bytes taken, modulo 2^16 (R27). -/
@[simp] theorem takeBytes_ip (s : State) (n : Nat) : (s.takeBytes n).ip = s.ip + BitVec.ofNat 16 n := by
  induction n generalizing s with
  | zero => simp [State.takeBytes]
  | succ n ih =>
    calc (s.takeBytes (n + 1)).ip = s.ip + 1 + BitVec.ofNat 16 n := ih s.takeByte
      _ = s.ip + BitVec.ofNat 16 (n + 1) := by rw [BitVec.add_assoc, BitVec.add_comm 1, BitVec.ofNat_add]; rfl

@[simp] theorem fetched_ip (s : State) (n : Nat) : (s.fetched n).ip = s.ip + BitVec.ofNat 16 n := by
  simp [State.fetched]

@[simp] theorem fetched_start (s : State) (n : Nat) :
    (s.fetched n).start = if s.pfx = Prefixes.none then s.ip else s.start := by simp [State.fetched]

/-- Fetching stores nothing: with no other master waiting for the gap after it, memory is as before (R80). -/
theorem fetched_mem_quiet {s : State} (n : Nat) (h : s.busQueue = []) : (s.fetched n).mem = s.mem := by
  have hq : (s.noteStart.takeBytes n).tick.busQueue = [] := by simpa using h
  rw [State.fetched, yieldBus_quiet hq]
  simp

/-- Whether REP stands before a non-string instruction (D22) depends on `pfx` alone, which a fetch keeps (R47). -/
@[simp] theorem fetched_badRepeat (s : State) (n : Nat) (i : Instr) : (s.fetched n).badRepeat i = s.badRepeat i := by
  simp [State.badRepeat]

/-! ### A step that fetches -/

theorem readyToFetch_iff (s : State) :
    s.readyToFetch = true ↔
      s.sampleInputs.pins.reset = false ∧ s.pins.reset = false ∧ (s.served.pins.hold && !s.served.busLocked) = false ∧
        s.halted = false ∧ s.waiting = false ∧ s.running = none := by
  simp only [State.readyToFetch, Bool.and_eq_true, Bool.not_eq_true', Option.isNone_iff_eq_none, and_assoc]

/-- Without an idle state or a string instruction in progress the CPU's turn is the next instruction. -/
theorem turn_fetches {s : State} (hhalt : s.halted = false) (hwait : s.waiting = false) (hrun : s.running = none) :
    turn s = fetchAndPerform s := by
  simp [turn, hhalt, hwait, hrun]

theorem step_of_readyToFetch {s : State} (h : s.readyToFetch = true) : step s = fetchAndPerform s.served := by
  obtain ⟨hreset, hwas, hbus, hhalt, hwait, hrun⟩ := (readyToFetch_iff s).mp h
  rw [step_turn hreset hwas hbus]
  exact turn_fetches (by simpa using hhalt) (by simpa using hwait) (by simpa using hrun)

theorem fetchAndPerform_of_decode {s : State} {i : Instr} {rest : List Byte} (h : decode s.fetchBytes = .ok (i, rest)) :
    fetchAndPerform s = perform i (s.fetched (6 - rest.length)) := by
  simp [fetchAndPerform, h]

/-- What is performed after a fetch looks at `pfx` and at TF as they were before it (log 26, 29). -/
theorem perform_fetched (s : State) (n : Nat) (i : Instr) :
    perform i (s.fetched n) = if s.badRepeat i then .refused .repeatBeforeNonString
      else andThen (exec i (s.fetched n)) (boundary s.flags.TF i) := by
  rw [perform, fetched_badRepeat, fetched_flags]

/-! ### The state right after reset -/

/-- The first byte after reset is fetched from FFFF0H (R51). -/
theorem reset_firstFetch : (phys State.reset.sregs.cs State.reset.ip).toNat = 0xFFFF0 := by decide

/-! ### The statements -/

/-- Settles O1: the step is the CPU's turn on the served state, the turn is a fetch, and serving and fetching keep what the
instruction is given. -/
theorem stepRunsDecodedInstruction : Obligations.StepRunsDecodedInstruction := by
  intro s i rest hready hdecode _
  have hstep : step s = perform i (s.served.fetched (6 - rest.length)) :=
    (step_of_readyToFetch hready).trans (fetchAndPerform_of_decode hdecode)
  refine ⟨?runs, ?gpr, ?sregs, ?flags, ?pfx, ?ip, ?start, fetched_mem_quiet _⟩
  case runs => rw [hstep, perform_fetched, served_flags]
  all_goals simp

/-- Settles O7: field by field from the table of R50 as `State.reset` has it. -/
theorem resetState : Obligations.ResetState := by
  refine ⟨?flags, rfl, rfl, rfl, rfl, rfl, reset_firstFetch, rfl, rfl, rfl, rfl, rfl, rfl, rfl⟩
  case flags => exact ⟨rfl, rfl, rfl, rfl, rfl, rfl, rfl, rfl, rfl⟩

end Sys2Proof.Machine
end

section
/-! PROOFS of 20_memory.md (O9): the physical address. -/

namespace Sys2Proof.Machine
open Sys2Proof

/-! ### The physical address in plain arithmetic -/

/-- The shift by four loses no bit of the segment: 20 bits hold `16 * 0xFFFF`, so only the sum with the offset can wrap. -/
theorem segmentBase_toNat (seg : Word) : (seg.setWidth 20 <<< 4).toNat = seg.toNat * 16 := by
  have hseg : seg.toNat < 2 ^ 16 := seg.isLt
  rw [BitVec.toNat_shiftLeft, BitVec.toNat_setWidth_of_le (by decide), Nat.shiftLeft_eq]
  exact Nat.mod_eq_of_lt (by omega)

theorem phys_toNat (seg off : Word) : (phys seg off).toNat = (seg.toNat * 16 + off.toNat) % 2 ^ 20 := by
  rw [phys, BitVec.toNat_add, segmentBase_toNat, BitVec.toNat_setWidth_of_le (by decide)]

/-! ### The statement -/

/-- Settles O9: the segment's base is exact and the offset keeps its value in 20 bits, so the sum is the one of R62. -/
theorem physicalAddress : Obligations.PhysicalAddress := phys_toNat

end Sys2Proof.Machine
end

section
/-! PROOFS of 30_encoding.md (O4, O10): one decoded word of each family, and the effective address with its segment. -/

namespace Sys2Proof.Machine
open Sys2Proof

/-! ### The effective address in plain arithmetic (R106, R107, R109) -/

theorem eaBase_value_toNat (g : Gpr) (b : EaBase) : (EaBase.value g b).toNat = EaBase.sum g b % 2 ^ 16 := by
  cases b with
  | bxSi | bxDi | bpSi | bpDi => exact BitVec.toNat_add _ _
  | si | di | bp | bx => exact (Nat.mod_eq_of_lt (BitVec.isLt _)).symm

/-- A word with a sign-extended byte added is the image modulo 2^16 of the signed sum. -/
theorem add_sext16_eq_ofInt (v : Word) (d : Byte) : v + sext16 d = BitVec.ofInt 16 (v.toNat + d.toInt) := by
  have hword : BitVec.ofInt 16 v.toNat = v := by rw [BitVec.ofInt_natCast, BitVec.ofNat_toNat, BitVec.setWidth_eq]
  have hbyte : BitVec.ofInt 16 d.toInt = sext16 d := rfl
  rw [BitVec.ofInt_add, hword, hbyte]

theorem toNat_add_sext16 (v : Word) (d : Byte) : ((v + sext16 d).toNat : Int) = (v.toNat + d.toInt) % 2 ^ 16 := by
  rw [add_sext16_eq_ofInt, BitVec.toNat_ofInt]
  exact Int.toNat_of_nonneg (Int.emod_nonneg _ (by decide))

/-! R109: wrapping the sum of the registers before the displacement is added loses nothing modulo 2^16. -/

theorem ea_disp8_toInt (s : State) (b : EaBase) (d : Byte) :
    ((s.ea (.disp8 b d)).toNat : Int) = ((EaBase.sum s.gpr b : Int) + d.toInt) % 2 ^ 16 :=
  calc ((EaBase.value s.gpr b + sext16 d).toNat : Int)
    _ = ((EaBase.value s.gpr b).toNat + d.toInt) % 2 ^ 16 := toNat_add_sext16 _ _
    _ = ((EaBase.sum s.gpr b : Int) % 2 ^ 16 + d.toInt) % 2 ^ 16 := by rw [eaBase_value_toNat]; rfl
    _ = ((EaBase.sum s.gpr b : Int) + d.toInt) % 2 ^ 16 := Int.emod_add_emod _ _ _

theorem ea_disp16_toNat (s : State) (b : EaBase) (d : Word) :
    (s.ea (.disp16 b d)).toNat = (EaBase.sum s.gpr b + d.toNat) % 2 ^ 16 :=
  calc (EaBase.value s.gpr b + d).toNat
    _ = ((EaBase.value s.gpr b).toNat + d.toNat) % 2 ^ 16 := BitVec.toNat_add _ _
    _ = (EaBase.sum s.gpr b % 2 ^ 16 + d.toNat) % 2 ^ 16 := by rw [eaBase_value_toNat]
    _ = (EaBase.sum s.gpr b + d.toNat) % 2 ^ 16 := Nat.mod_add_mod _ _ _

/-! ### The segment of a memory operand (R64, R108) -/

theorem segOr_of_override {s : State} {r : SegReg} (h : s.pfx.override = some r) (dflt : SegReg) :
    s.segOr dflt = s.sregs.get r := by
  simp [State.segOr, h]

theorem segOr_of_no_override {s : State} (h : s.pfx.override = none) (dflt : SegReg) :
    s.segOr dflt = s.sregs.get dflt := by
  simp [State.segOr, h]

/-- R108: SS is the default where the sum contains BP, else DS. -/
theorem get_eaBase_segment (g : SegRegs) (b : EaBase) :
    g.get (EaBase.segment b) = if b = .bpSi ∨ b = .bpDi ∨ b = .bp then g.ss else g.ds := by
  cases b <;> rfl

/-- A displacement does not change the default segment of a sum of registers. -/
theorem segment_of_based {b : EaBase} {d8 : Byte} {d16 : Word} {m : Mem}
    (h : m ∈ [Mem.plain b, Mem.disp8 b d8, Mem.disp16 b d16]) : Mem.segment m = EaBase.segment b := by
  simp only [List.mem_cons, List.not_mem_nil, or_false] at h
  obtain rfl | rfl | rfl := h <;> rfl

/-! ### The statements -/

/-- Settles O4: each list of bytes is run through the decoder. -/
theorem decodedWords : Obligations.DecodedWords := by
  refine ⟨?movRmReg, ?addRmImmSx, ?shrRm, ?movs, ?callFar, ?lock, ?resMovCs⟩
  all_goals rfl

/-- Settles O10: each displacement form adds to the wrapped sum of its registers, and the segment is decided by whether an
override is in force, then by the registers of the sum. -/
theorem effectiveAddress : Obligations.EffectiveAddress := by
  intro s b d8 d16
  refine ⟨eaBase_value_toNat s.gpr b, ea_disp8_toInt s b d8, ea_disp16_toNat s b d16, rfl, ?based, ?direct⟩
  case based =>
    intro m hm
    rw [State.segEff, segment_of_based hm]
    cases hover : s.pfx.override with
    | some r => exact segOr_of_override hover _
    | none => exact (segOr_of_no_override hover _).trans (get_eaBase_segment s.sregs b)
  case direct =>
    cases hover : s.pfx.override with
    | some r => exact segOr_of_override hover _
    | none => exact segOr_of_no_override hover _

end Sys2Proof.Machine
end

section
/-! PROOFS of 40_data_transfer.md (O21): the bits of the FLAGS word, and what LAHF, SAHF, PUSHF and POPF write and
leave unchanged. -/

namespace Sys2Proof.Machine
open Sys2Proof

/-! ### Bits of a byte of a word -/

theorem getLsbD_lowByte (v : Word) {k : Nat} (hk : k < 8) : (lowByte v).getLsbD k = v.getLsbD k := by
  simp [lowByte, hk]

theorem getLsbD_highByte (v : Word) {k : Nat} (hk : k < 8) : (highByte v).getLsbD k = v.getLsbD (8 + k) := by
  simp [highByte, hk]

/-! ### The bits of the FLAGS word: the nine flags (R28)

Each is the field of `Flags.ofWord` that reads the position, so that it follows from `flags_ofWord_toWord`. -/

section
variable (f : Flags) (image : Word)

theorem getLsbD_toWord_CF : (f.toWord image).getLsbD 0 = f.CF :=
  congrArg Flags.CF (flags_ofWord_toWord f image)
theorem getLsbD_toWord_PF : (f.toWord image).getLsbD 2 = f.PF :=
  congrArg Flags.PF (flags_ofWord_toWord f image)
theorem getLsbD_toWord_AF : (f.toWord image).getLsbD 4 = f.AF :=
  congrArg Flags.AF (flags_ofWord_toWord f image)
theorem getLsbD_toWord_ZF : (f.toWord image).getLsbD 6 = f.ZF :=
  congrArg Flags.ZF (flags_ofWord_toWord f image)
theorem getLsbD_toWord_SF : (f.toWord image).getLsbD 7 = f.SF :=
  congrArg Flags.SF (flags_ofWord_toWord f image)
theorem getLsbD_toWord_TF : (f.toWord image).getLsbD 8 = f.TF :=
  congrArg Flags.TF (flags_ofWord_toWord f image)
theorem getLsbD_toWord_IF : (f.toWord image).getLsbD 9 = f.IF :=
  congrArg Flags.IF (flags_ofWord_toWord f image)
theorem getLsbD_toWord_DF : (f.toWord image).getLsbD 10 = f.DF :=
  congrArg Flags.DF (flags_ofWord_toWord f image)
theorem getLsbD_toWord_OF : (f.toWord image).getLsbD 11 = f.OF :=
  congrArg Flags.OF (flags_ofWord_toWord f image)

end

/-! ### The bits of the FLAGS word: the X positions (R38) -/

theorem getLsbD_flagBit_ne (b : Bool) {j k : Nat} (h : k ≠ j) : (flagBit b j).getLsbD k = false := by
  have hbit : k < j ∨ k - j ≠ 0 := by omega
  simp only [flagBit, BitVec.getLsbD_shiftLeft, BitVec.getLsbD_setWidth, BitVec.getLsbD_ofBool]
  rcases hbit with hlt | hne
  · simp [hlt]
  · simp [hne]

/-- Where the mask has a bit no flag has its position, so the image shows through. -/
theorem getLsbD_toWord_X (f : Flags) (image : Word) {k : Nat} (hk : k ∈ [15, 14, 13, 12, 5, 3, 1]) :
    (f.toWord image).getLsbD k = image.getLsbD k := by
  have hmask : flagsXMask.getLsbD k = true := by revert k; decide
  have hflags : ∀ j ∈ [0, 2, 4, 6, 7, 8, 9, 10, 11], k ≠ j := by revert k; decide
  have hnone (b : Bool) : ∀ j ∈ [0, 2, 4, 6, 7, 8, 9, 10, 11], (flagBit b j).getLsbD k = false :=
    fun j hj => getLsbD_flagBit_ne b (hflags j hj)
  simp [Flags.toWord, hmask, hnone]

/-! ### Frames -/

theorem noStore_refl (s : State) : s.noStore s := ⟨fun _ => rfl, rfl, rfl⟩

theorem straight_refl (s : State) : s.straight s := by simp [State.straight, State.restSame]

theorem noStore_setRegW (s : State) (w : Width) (r : RegCode) (v : BitVec w.bits) : s.noStore (s.setRegW w r v) :=
  noStore_refl s

theorem straight_setRegW (s : State) (w : Width) (r : RegCode) (v : BitVec w.bits) : s.straight (s.setRegW w r v) :=
  straight_refl s

theorem flagsOnly_setFlags (s : State) (f : Flags) : s.flagsOnly (s.setFlags f) :=
  ⟨rfl, noStore_refl s, straight_refl s⟩

/-- Popping moves SP alone (R14). -/
theorem popped_frame (s : State) :
    s.gpr.onlyWord s.popped.gpr .r100 (s.gpr.sp + 2) ∧ s.noStore s.popped ∧ s.straight s.popped :=
  ⟨gpr_set_onlyWord s.gpr .r100 (s.gpr.sp + 2), noStore_refl s, straight_refl s⟩

/-! ### The four instructions -/

theorem exec_lahf (s : State) :
    exec .lahf s = .next (s.setRegW .byte .r100 (lowByte (s.flags.toWord s.plat.flagsImage))) := rfl

theorem exec_sahf (s : State) : exec .sahf s = .next (s.setFlags (s.flags.loadLow (highByte s.gpr.ax))) := rfl

theorem exec_pushf (s : State) : exec .pushf s = .next (s.push16 (s.flags.toWord s.plat.flagsImage)) := rfl

theorem exec_popf (s : State) :
    exec .popf s = .next (s.popped.setFlags (Flags.ofWord (s.read16 s.sregs.ss s.gpr.sp))) := rfl

/-! ### The statement -/

/-- Settles O21: LAHF and PUSHF by the bits of the FLAGS word, whose low byte or whole they write; SAHF and POPF by the
positions `loadLow` and `ofWord` read. -/
theorem flagTransfers : Obligations.FlagTransfers := by
  refine ⟨fun _ => rfl, fun _ => rfl, fun _ => rfl, fun _ => rfl, fun s => ⟨?lahf, ?sahf, ?pushf, ?popf⟩⟩
  case lahf =>
    have hlow {k : Nat} (h8 : k < 8) := getLsbD_lowByte (s.flags.toWord s.plat.flagsImage) h8
    exact ⟨_, _, exec_lahf s, gpr_setByte_onlyByte s.gpr .r100 _,
      (hlow (by decide)).trans (getLsbD_toWord_SF _ _), (hlow (by decide)).trans (getLsbD_toWord_ZF _ _),
      (hlow (by decide)).trans (getLsbD_toWord_X _ _ (by decide)), (hlow (by decide)).trans (getLsbD_toWord_AF _ _),
      (hlow (by decide)).trans (getLsbD_toWord_X _ _ (by decide)), (hlow (by decide)).trans (getLsbD_toWord_PF _ _),
      (hlow (by decide)).trans (getLsbD_toWord_X _ _ (by decide)), (hlow (by decide)).trans (getLsbD_toWord_CF _ _),
      noStore_setRegW s _ _ _, rfl, straight_setRegW s _ _ _⟩
  case sahf =>
    have hhigh {k : Nat} (h8 : k < 8) := getLsbD_highByte s.gpr.ax h8
    exact ⟨_, exec_sahf s, hhigh (by decide), hhigh (by decide), hhigh (by decide), hhigh (by decide),
      hhigh (by decide), rfl, ⟨rfl, rfl, rfl⟩, flagsOnly_setFlags s _⟩
  case pushf =>
    obtain ⟨hpushed, hflags, hstraight⟩ := pushed_push16 s (s.flags.toWord s.plat.flagsImage)
    exact ⟨_, _, exec_pushf s, hpushed, getLsbD_toWord_CF _ _, getLsbD_toWord_PF _ _, getLsbD_toWord_AF _ _,
      getLsbD_toWord_ZF _ _, getLsbD_toWord_SF _ _, getLsbD_toWord_TF _ _, getLsbD_toWord_IF _ _, getLsbD_toWord_DF _ _,
      getLsbD_toWord_OF _ _, fun _ hk => getLsbD_toWord_X _ _ hk, hflags, hstraight⟩
  case popf =>
    obtain ⟨hsp, hstore, hstraight⟩ := popped_frame s
    exact ⟨_, _, exec_popf s, rfl, hsp, rfl, rfl, rfl, rfl, rfl, rfl, rfl, rfl, rfl, hstore, hstraight⟩

end Sys2Proof.Machine
end

section
/-! PROOFS of 41_arithmetic.md (O27, O30, O34): the ASCII adjusts and the sign extensions, which read the halves of AX
and write one word register. -/

namespace Sys2Proof.Machine
open Sys2Proof

/-! ### The halves of AX, and a word from two bytes, in plain arithmetic -/

theorem wordOf_eq_ofNat (hi lo : Byte) : wordOf hi lo = BitVec.ofNat 16 (hi.toNat * 256 + lo.toNat) := by
  apply BitVec.eq_of_toNat_eq
  have hhi : hi.toNat < 256 := hi.isLt
  have hlo : lo.toNat < 2 ^ 8 := lo.isLt
  rw [wordOf, BitVec.toNat_append, ← Nat.shiftLeft_add_eq_or_of_lt hlo, Nat.shiftLeft_eq, BitVec.toNat_ofNat]
  omega

/-- AL (R22). -/
theorem getByte_al_toNat (g : Gpr) : (g.getByte .r000).toNat = g.ax.toNat % 256 := BitVec.extractLsb'_toNat 0 8 g.ax

/-- AH (R22). -/
theorem getByte_ah_toNat (g : Gpr) : (g.getByte .r100).toNat = g.ax.toNat / 256 := by
  have hax : g.ax.toNat < 65536 := g.ax.isLt
  rw [Gpr.getByte, highByte, BitVec.extractLsb'_toNat, Nat.shiftRight_eq_div_pow]
  omega

theorem lowNibble_toNat (b : Byte) : (b &&& 0x0F).toNat = b.toNat % 16 := by
  rw [BitVec.toNat_and]
  exact Nat.and_two_pow_sub_one_eq_mod b.toNat 4

/-! ### AAA and AAS -/

/-- The condition of the adjusts (R210, R225). -/
theorem adjustLow_al_iff (s : State) :
    adjustLow (s.gpr.getByte .r000) s.flags.AF = true ↔ 9 < s.gpr.ax.toNat % 256 % 16 ∨ s.flags.AF = true := by
  rw [adjustLow, Bool.or_eq_true, decide_eq_true_eq, getByte_al_toNat]

/-- What AAA and AAS share: where they adjust, AH is `hi` and AL the low nibble of `lo`; else AH stays, and the low nibble
of AL. -/
def State.asciiAdjusted (s : State) (hi lo : Byte) : State :=
  if adjustLow (s.gpr.getByte .r000) s.flags.AF then (s.asciiFlags true).setAhAl hi (lo &&& 0x0F)
  else (s.asciiFlags false).setAhAl (s.gpr.getByte .r100) (s.gpr.getByte .r000 &&& 0x0F)

theorem exec_aaa (s : State) :
    exec .aaa s = .next (s.asciiAdjusted (s.gpr.getByte .r100 + 1) (s.gpr.getByte .r000 + 6)) := rfl

theorem exec_aas (s : State) :
    exec .aas s = .next (s.asciiAdjusted (s.gpr.getByte .r100 - 1) (s.gpr.getByte .r000 - 6)) := rfl

/-- `asciiFlags` leaves TF, IF and DF, and `setAhAl` writes AX alone. -/
theorem asciiFlags_setAhAl_frame (s : State) (c : Bool) (ah al : Byte) :
    s.flags.controlsSame ((s.asciiFlags c).setAhAl ah al).flags ∧ s.noStore ((s.asciiFlags c).setAhAl ah al) ∧
      s.straight ((s.asciiFlags c).setAhAl ah al) :=
  ⟨⟨rfl, rfl, rfl⟩, noStore_refl s, straight_refl s⟩

theorem setAhAl_onlyWord (s : State) (ah al : Byte) :
    s.gpr.onlyWord (s.setAhAl ah al).gpr .r000 (BitVec.ofNat 16 (ah.toNat * 256 + al.toNat)) :=
  wordOf_eq_ofNat ah al ▸ gpr_set_onlyWord s.gpr .r000 (wordOf ah al)

/-- All `asciiAdjusted` does, in plain arithmetic (R210, R225). -/
theorem asciiAdjusted_effect (s : State) (hi lo : Byte) :
    let adjusts : Prop := 9 < s.gpr.ax.toNat % 256 % 16 ∨ s.flags.AF = true
    let t := s.asciiAdjusted hi lo
    (adjusts → s.gpr.onlyWord t.gpr .r000 (BitVec.ofNat 16 (hi.toNat * 256 + lo.toNat % 16))) ∧
      (¬ adjusts → s.gpr.onlyWord t.gpr .r000
        (BitVec.ofNat 16 (s.gpr.ax.toNat / 256 * 256 + s.gpr.ax.toNat % 256 % 16))) ∧
      (t.flags.AF = true ↔ adjusts) ∧ (t.flags.CF = true ↔ adjusts) ∧ s.flags.controlsSame t.flags ∧ s.noStore t ∧
      s.straight t := by
  intro adjusts t
  by_cases h : adjusts
  · have ht : t = (s.asciiFlags true).setAhAl hi (lo &&& 0x0F) := if_pos ((adjustLow_al_iff s).mpr h)
    have hword := setAhAl_onlyWord (s.asciiFlags true) hi (lo &&& 0x0F)
    rw [lowNibble_toNat] at hword
    rw [ht]
    exact ⟨fun _ => hword, absurd h, iff_of_true rfl h, iff_of_true rfl h, asciiFlags_setAhAl_frame s _ _ _⟩
  · have ht : t = (s.asciiFlags false).setAhAl (s.gpr.getByte .r100) (s.gpr.getByte .r000 &&& 0x0F) :=
      if_neg (mt (adjustLow_al_iff s).mp h)
    have hword := setAhAl_onlyWord (s.asciiFlags false) (s.gpr.getByte .r100) (s.gpr.getByte .r000 &&& 0x0F)
    rw [lowNibble_toNat, getByte_ah_toNat, getByte_al_toNat] at hword
    rw [ht]
    exact ⟨fun ha => absurd ha h, fun _ => hword, iff_of_false Bool.false_ne_true h, iff_of_false Bool.false_ne_true h,
      asciiFlags_setAhAl_frame s _ _ _⟩

/-! The bytes AAA and AAS adjust by: subtraction is the addition of the complement modulo 256. -/

theorem ah_add_one_toNat (g : Gpr) : (g.getByte .r100 + 1).toNat = (g.ax.toNat / 256 + 1) % 256 := by
  rw [BitVec.toNat_add, getByte_ah_toNat]; rfl

theorem ah_sub_one_toNat (g : Gpr) : (g.getByte .r100 - 1).toNat = (g.ax.toNat / 256 + 255) % 256 := by
  rw [BitVec.toNat_sub, getByte_ah_toNat, Nat.add_comm]; rfl

theorem al_add_six_nibble (g : Gpr) : (g.getByte .r000 + 6).toNat % 16 = (g.ax.toNat % 256 + 6) % 16 := by
  rw [BitVec.toNat_add, getByte_al_toNat]
  exact Nat.mod_mod_of_dvd _ (by decide)

theorem al_sub_six_nibble (g : Gpr) : (g.getByte .r000 - 6).toNat % 16 = (g.ax.toNat % 256 + 250) % 16 := by
  rw [BitVec.toNat_sub, getByte_al_toNat, Nat.add_comm]
  exact Nat.mod_mod_of_dvd _ (by decide)

/-! ### AAM and AAD -/

theorem exec_aam (s : State) :
    exec .aam s = .next ((s.szpFlags (s.gpr.getByte .r000 % 10)).setAhAl (s.gpr.getByte .r000 / 10)
      (s.gpr.getByte .r000 % 10)) := rfl

theorem exec_aad (s : State) :
    exec .aad s = .next ((s.szpFlags (s.gpr.getByte .r100 * 10 + s.gpr.getByte .r000)).setAhAl 0
      (s.gpr.getByte .r100 * 10 + s.gpr.getByte .r000)) := rfl

/-- All AAM and AAD do with the bytes they compute: AH : AL and the SF, ZF, PF of AL are written (R232, R235). -/
theorem szpFlags_setAhAl_effect (s : State) (ah al : Byte) :
    let t := (s.szpFlags al).setAhAl ah al
    s.gpr.onlyWord t.gpr .r000 (BitVec.ofNat 16 (ah.toNat * 256 + al.toNat)) ∧ t.flags.szpOf 8 al.toNat ∧
      s.flags.controlsSame t.flags ∧ s.noStore t ∧ s.straight t :=
  ⟨setAhAl_onlyWord (s.szpFlags al) ah al, szpOf_setSzp s.flags al, ⟨rfl, rfl, rfl⟩, noStore_refl s, straight_refl s⟩

theorem aam_quotient_toNat (g : Gpr) : (g.getByte .r000 / 10).toNat = g.ax.toNat % 256 / 10 := by
  rw [BitVec.toNat_udiv, getByte_al_toNat]; rfl

theorem aam_remainder_toNat (g : Gpr) : (g.getByte .r000 % 10).toNat = g.ax.toNat % 256 % 10 := by
  rw [BitVec.toNat_umod, getByte_al_toNat]; rfl

theorem aad_sum_toNat (g : Gpr) :
    (g.getByte .r100 * 10 + g.getByte .r000).toNat = (g.ax.toNat / 256 * 10 + g.ax.toNat % 256) % 256 := by
  rw [BitVec.toNat_add, BitVec.toNat_mul, getByte_ah_toNat, getByte_al_toNat]
  exact Nat.mod_add_mod _ _ _

/-- D4H and D5H decode by their second byte: AAM and AAD where it is 0AH, else the reserved encodings (R119). -/
theorem decode_D4 (b : Byte) (rest : List Byte) :
    decode (0xD4 :: b :: rest) = .ok (if b = 0x0A then .aam else .resD4 b, rest) := rfl

theorem decode_D5 (b : Byte) (rest : List Byte) :
    decode (0xD5 :: b :: rest) = .ok (if b = 0x0A then .aad else .resD5 b, rest) := rfl

theorem encodedAs_resD4 {b : Byte} (hb : b ≠ 0x0A) : encodedAs (.resD4 b) [0xD4, b] := by
  intro rest
  exact (decode_D4 b rest).trans (by rw [if_neg hb])

theorem encodedAs_resD5 {b : Byte} (hb : b ≠ 0x0A) : encodedAs (.resD5 b) [0xD5, b] := by
  intro rest
  exact (decode_D5 b rest).trans (by rw [if_neg hb])

/-! ### CBW and CWD -/

theorem exec_cbw (s : State) : exec .cbw s = .next (s.setReg .r000 (sext16 (s.gpr.getByte .r000))) := rfl

theorem exec_cwd (s : State) : exec .cwd s = .next (s.setReg .r010 (if s.gpr.ax.msb then 0xFFFF else 0)) := rfl

theorem sext16_toInt (b : Byte) : (sext16 b).toInt = b.toInt := BitVec.toInt_signExtend_of_le (by decide)

/-- A word of sign bits above a word is the word's own value in 32 bits (R238). -/
theorem signWord_toInt (v : Word) : (if v.msb then 0xFFFF else 0 : Word).toInt * 65536 + v.toNat = v.toInt := by
  rw [BitVec.toInt_eq_msb_cond v]
  cases v.msb with
  | true => simp only [if_true, show (0xFFFF : Word).toInt = -1 by rfl]; omega
  | false => simp

theorem setReg_onlyWord (s : State) (r : RegCode) (v : Word) : s.gpr.onlyWord (s.setReg r v).gpr r v :=
  gpr_set_onlyWord s.gpr r v

/-- Outside the general registers `setReg` leaves the state as it is. -/
theorem setReg_frame (s : State) (r : RegCode) (v : Word) :
    s.noStore (s.setReg r v) ∧ (s.setReg r v).flags = s.flags ∧ s.straight (s.setReg r v) :=
  ⟨noStore_refl s, rfl, straight_refl s⟩

/-! ### The statements -/

/-- Settles O27: both instructions are `asciiAdjusted`, each with its own two bytes. -/
theorem aaaAas : Obligations.AaaAas := by
  refine ⟨fun _ => rfl, fun _ => rfl, fun s => ⟨⟨_, exec_aaa s, ?aaa⟩, ⟨_, exec_aas s, ?aas⟩⟩⟩
  case aaa =>
    rw [← ah_add_one_toNat, ← al_add_six_nibble]
    exact asciiAdjusted_effect s _ _
  case aas =>
    rw [← ah_sub_one_toNat, ← al_sub_six_nibble]
    exact asciiAdjusted_effect s _ _

/-- Settles O30: both instructions write AH : AL with the SF, ZF, PF of AL; the second byte decides between them and the
reserved encodings. -/
theorem aamAad : Obligations.AamAad := by
  refine ⟨fun _ => rfl, fun _ => rfl, fun _ hb => ⟨encodedAs_resD4 hb, encodedAs_resD5 hb⟩,
    fun s => ⟨fun _ => ⟨_, _, rfl, rfl⟩, ⟨_, exec_aam s, ?aam⟩, ⟨_, exec_aad s, ?aad⟩⟩⟩
  case aam =>
    rw [← aam_quotient_toNat, ← aam_remainder_toNat]
    exact szpFlags_setAhAl_effect s _ _
  case aad =>
    rw [← aad_sum_toNat]
    simpa using szpFlags_setAhAl_effect s 0 (s.gpr.getByte .r100 * 10 + s.gpr.getByte .r000)

/-- Settles O34: CBW writes the sign extension of AL; CWD writes a word of AX's sign bit, so that DX : AX is AX's value. -/
theorem cbwCwd : Obligations.CbwCwd := by
  refine ⟨fun _ => rfl, fun _ => rfl, fun s => ⟨?cbw, ?cwd⟩⟩
  case cbw => exact ⟨_, _, exec_cbw s, setReg_onlyWord s _ _, sext16_toInt _, setReg_frame s _ _⟩
  case cwd => exact ⟨_, _, exec_cwd s, setReg_onlyWord s _ _, signWord_toInt _, setReg_frame s _ _⟩

end Sys2Proof.Machine
end

section
/-! PROOFS of 44_control_transfer.md (O44 to O47): RET, the conditional jumps and their meaning after CMP, and the loops. -/

namespace Sys2Proof.Machine
open Sys2Proof

/-! ### Taken transfers of control -/

theorem restSame_refl (s : State) : s.restSame s := by simp [State.restSame]

/-- A transfer within the segment writes IP, empties the queue, and does nothing else (R26, R83). -/
theorem jumped_jumpNear (s : State) (ip : Word) : s.jumped (s.jumpNear ip) ip :=
  ⟨rfl, rfl, rfl, rfl, restSame_refl s⟩

theorem jumpedFar_jumpFar (s : State) (cs ip : Word) : s.jumpedFar (s.jumpFar cs ip) cs ip :=
  ⟨rfl, rfl, sregs_set_only s.sregs .cs cs, rfl, restSame_refl s⟩

/-! ### SP going up in steps (R14, R330 to R333) -/

/-- What is added to SP adds to the sum so far: two additions modulo 2^16 are one. -/
theorem onlyWord_moveSp {g : Gpr} {t : State} {up : Nat} (n : Word)
    (h : g.onlyWord t.gpr .r100 (BitVec.ofNat 16 (g.sp.toNat + up))) :
    g.onlyWord (t.moveSp n).gpr .r100 (BitVec.ofNat 16 (g.sp.toNat + (up + n.toNat))) := by
  obtain ⟨hsp, hothers⟩ := h
  obtain ⟨hmoved, hkept⟩ := gpr_set_onlyWord t.gpr .r100 (t.gpr.sp + n)
  refine ⟨hmoved.trans ?_, fun x hx => (hkept x hx).trans (hothers x hx)⟩
  calc t.gpr.sp + n
    _ = BitVec.ofNat 16 (g.sp.toNat + up) + BitVec.ofNat 16 n.toNat := by
      rw [show t.gpr.sp = _ from hsp, BitVec.ofNat_toNat, BitVec.setWidth_eq]
    _ = BitVec.ofNat 16 (g.sp.toNat + (up + n.toNat)) := by rw [← BitVec.ofNat_add, Nat.add_assoc]

theorem onlyWord_popped (s : State) : s.gpr.onlyWord s.popped.gpr .r100 (BitVec.ofNat 16 (s.gpr.sp.toNat + 2)) := by
  have hsp : BitVec.ofNat 16 (s.gpr.sp.toNat + 2) = s.gpr.sp + 2 := by
    rw [BitVec.ofNat_add, BitVec.ofNat_toNat, BitVec.setWidth_eq]; rfl
  exact hsp ▸ gpr_set_onlyWord s.gpr .r100 (s.gpr.sp + 2)

/-! ### RET -/

/-- The immediate stands low byte first (R111). -/
theorem decode_C2 (lo hi : Byte) (rest : List Byte) :
    decode (0xC2 :: lo :: hi :: rest) = .ok (.retImm (wordOf hi lo), rest) := rfl

theorem decode_CA (lo hi : Byte) (rest : List Byte) :
    decode (0xCA :: lo :: hi :: rest) = .ok (.retfImm (wordOf hi lo), rest) := rfl

theorem encodedAs_retImm (n : Word) : encodedAs (.retImm n) [0xC2, lowByte n, highByte n] := fun rest =>
  (decode_C2 _ _ rest).trans (by rw [wordOf_highByte_lowByte])

theorem encodedAs_retfImm (n : Word) : encodedAs (.retfImm n) [0xCA, lowByte n, highByte n] := fun rest =>
  (decode_CA _ _ rest).trans (by rw [wordOf_highByte_lowByte])

/-- IP popped (R330): the target, SP, and nothing stored. -/
theorem popNear_effect (s : State) :
    let t := s.popped.jumpNear s.stackTop
    s.jumped t (s.read16 s.sregs.ss s.gpr.sp) ∧
      s.gpr.onlyWord t.gpr .r100 (BitVec.ofNat 16 (s.gpr.sp.toNat + 2)) ∧ s.memSame t ∧ t.busLog = s.busLog :=
  ⟨jumped_jumpNear s _, onlyWord_popped s, fun _ => rfl, rfl⟩

theorem popFar_gpr (s : State) : s.popFar.gpr = s.popped.popped.gpr := by simp [State.popFar]

/-- IP, then CS popped (R332): the gap between the two touches neither SP nor SS. -/
theorem popFar_effect (s : State) :
    s.yieldBus.jumpedFar s.popFar (s.yieldBus.read16 s.sregs.ss (s.gpr.sp + 2)) (s.read16 s.sregs.ss s.gpr.sp) ∧
      s.gpr.onlyWord s.popFar.gpr .r100 (BitVec.ofNat 16 (s.gpr.sp.toNat + 4)) ∧ s.yieldBus.memSame s.popFar ∧
      s.popFar.busLog = s.busLog := by
  have hsecond : s.yieldBus.popped.stackTop = s.yieldBus.read16 s.sregs.ss (s.gpr.sp + 2) := by
    rw [← yieldBus_sregs, ← yieldBus_gpr]; rfl
  refine ⟨?jumped, ?sp, fun _ => rfl, popFar_busLog s⟩
  case jumped => exact hsecond ▸ jumpedFar_jumpFar s.yieldBus _ _
  case sp => exact popFar_gpr s ▸ onlyWord_moveSp 2 (onlyWord_popped s)

/-- The immediate of RET moves SP alone, by a byte count on top of what the pops added (R331, R333). -/
theorem jumped_moveSp {s t : State} {ip : Word} (n : Word) (h : s.jumped t ip) : s.jumped (t.moveSp n) ip := h

theorem jumpedFar_moveSp {s t : State} {cs ip : Word} (n : Word) (h : s.jumpedFar t cs ip) :
    s.jumpedFar (t.moveSp n) cs ip := h

/-! ### Jumps on a condition (R339) -/

/-- All `jump_rel8` does under a condition that holds exactly where `P` does. -/
theorem jumpRel8_effect (s : State) (disp : Byte) {c : Bool} {P : Prop} (hc : c = true ↔ P) :
    let t := s.jumpRel8 c disp
    t.gpr = s.gpr ∧ s.memSame t ∧ t.busLog = s.busLog ∧
      (P → s.jumped t (BitVec.ofInt 16 (s.ip.toNat + disp.toInt))) ∧ (¬ P → t = s) := by
  rw [← add_sext16_eq_ofInt, ← hc]
  cases c with
  | true => exact ⟨rfl, fun _ => rfl, rfl, fun _ => jumped_jumpNear s _, absurd rfl⟩
  | false => exact ⟨rfl, fun _ => rfl, rfl, fun h => absurd h Bool.false_ne_true, fun _ => rfl⟩

/-- The same with both outcomes said of the condition's own value. -/
theorem jumpRel8_bool_effect (s : State) (disp : Byte) (c : Bool) :
    let t := s.jumpRel8 c disp
    t.gpr = s.gpr ∧ s.memSame t ∧ t.busLog = s.busLog ∧
      (c = true → s.jumped t (BitVec.ofInt 16 (s.ip.toNat + disp.toInt))) ∧ (c = false → t = s) := by
  rw [← Bool.not_eq_true c]
  exact jumpRel8_effect s disp Iff.rfl

/-! ### The flags after CMP (R222): how the operands compare -/

section
variable {f g : Flags} {w : Width} {a b : BitVec w.bits} (h : f.difference g a b false)
include h

/-- CF: below, unsigned. -/
theorem difference_CF_iff_lt : g.CF = true ↔ a.toNat < b.toNat := h.2

theorem difference_CF_eq_false_iff_le : g.CF = false ↔ b.toNat ≤ a.toNat := by
  rw [← Bool.not_eq_true, difference_CF_iff_lt h, Nat.not_lt]

/-- ZF: equal. Both operands are below 2^N, so their difference modulo 2^N is 0 only where it is 0. -/
theorem difference_ZF_iff_eq : g.ZF = true ↔ a = b := by
  obtain ⟨⟨⟨_, hzero, _⟩, _⟩, _⟩ := h
  have ha := a.isLt
  have hb := b.isLt
  rw [hzero, ← BitVec.toNat_inj]
  cases w <;> simp only [difference, Width.bits, Bool.toNat_false] at * <;> omega

/-- SF differs from OF: less, signed. SF is the sign of the difference where it fits, and OF says that it does not. -/
theorem difference_SF_ne_OF_iff_lt : g.SF ≠ g.OF ↔ a.toInt < b.toInt := by
  obtain ⟨⟨⟨hsign, _, _⟩, _, hoverflow, _⟩, _⟩ := h
  have ha := a.isLt
  have hb := b.isLt
  rw [ne_eq, Bool.eq_iff_iff, hsign, hoverflow]
  simp only [tooBig, difference, BitVec.toInt_eq_toNat_cond]
  cases w <;> simp only [Width.bits, Bool.toNat_false] at * <;> omega

theorem difference_SF_eq_OF_iff_le : g.SF = g.OF ↔ b.toInt ≤ a.toInt := by
  rw [← Decidable.not_not (p := g.SF = g.OF), ← ne_eq, difference_SF_ne_OF_iff_lt h, Int.not_lt]

/-- CF or ZF: below or equal. -/
theorem difference_CF_or_ZF_iff_le : g.CF = true ∨ g.ZF = true ↔ a.toNat ≤ b.toNat := by
  rw [difference_CF_iff_lt h, difference_ZF_iff_eq h, ← BitVec.toNat_inj, Nat.le_iff_lt_or_eq]

/-- ZF, or SF different from OF: less or equal. -/
theorem difference_ZF_or_SF_ne_OF_iff_le : g.ZF = true ∨ g.SF ≠ g.OF ↔ a.toInt ≤ b.toInt := by
  rw [difference_ZF_iff_eq h, difference_SF_ne_OF_iff_lt h, ← BitVec.toInt_inj, le_iff_eq_or_lt]

theorem difference_CF_and_ZF_iff_lt : g.CF = false ∧ g.ZF = false ↔ b.toNat < a.toNat := by
  rw [← Nat.not_le, ← difference_CF_or_ZF_iff_le h, not_or, Bool.not_eq_true, Bool.not_eq_true]

theorem difference_ZF_and_SF_eq_OF_iff_lt : g.ZF = false ∧ g.SF = g.OF ↔ b.toInt < a.toInt := by
  rw [← Int.not_le, ← difference_ZF_or_SF_ne_OF_iff_le h, not_or, Bool.not_eq_true, not_not]

end

/-! ### Loops -/

/-- CX is 0 after the count exactly where it was 1 before. -/
theorem countCx_ne_zero_iff (s : State) : (s.countCx.gpr.cx != 0) = true ↔ s.gpr.cx ≠ 1 := by
  rw [bne_iff_ne, show s.countCx.gpr.cx = s.gpr.cx - 1 from rfl, ne_eq, sub_eq_zero]

theorem countCx_ne_zero_and_iff (s : State) (z : Bool) :
    (s.countCx.gpr.cx != 0 && z) = true ↔ s.gpr.cx ≠ 1 ∧ z = true := by
  rw [Bool.and_eq_true, countCx_ne_zero_iff]

/-- All a loop does: CX is counted, then the jump is taken or not (R356 to R358). -/
theorem countCx_jumpRel8_effect (s : State) (disp : Byte) {c : Bool} {P : Prop} (hc : c = true ↔ P) :
    let t := s.countCx.jumpRel8 c disp
    s.gpr.onlyWord t.gpr .r001 (s.gpr.cx - 1) ∧ s.memSame t ∧ t.busLog = s.busLog ∧
      (P → s.jumped t (BitVec.ofInt 16 (s.ip.toNat + disp.toInt))) ∧
      (¬ P → t.stale = s.stale ∧ t.flags = s.flags ∧ s.straight t) := by
  intro t
  obtain ⟨hgpr, hmem, hlog, htaken, hnot⟩ := jumpRel8_effect s.countCx disp hc
  refine ⟨?cx, hmem, hlog, htaken, fun hP => ?straight⟩
  case cx =>
    rw [show t.gpr = s.countCx.gpr from hgpr]
    exact setReg_onlyWord s .r001 (s.gpr.cx - 1)
  case straight =>
    rw [show t = s.countCx from hnot hP]
    exact ⟨rfl, rfl, straight_refl s⟩

/-! ### The statements -/

/-- Settles O44: the pops move SP by 2 each, and the immediate moves it once more without touching the rest. -/
theorem retForms : Obligations.RetForms := by
  refine ⟨fun _ => rfl, encodedAs_retImm, fun _ => rfl, encodedAs_retfImm, fun s => ?effects⟩
  case effects =>
    obtain ⟨hnear, hsp, hmem, hlog⟩ := popNear_effect s
    obtain ⟨hfar, hspFar, hmemFar, hlogFar⟩ := popFar_effect s
    exact ⟨⟨_, rfl, hnear, hsp, hmem, hlog⟩,
      fun n => ⟨_, rfl, jumped_moveSp n hnear, onlyWord_moveSp n hsp, hmem, hlog⟩,
      ⟨_, rfl, hfar, hspFar, hmemFar, hlogFar⟩,
      fun n => ⟨_, rfl, jumpedFar_moveSp n hfar, onlyWord_moveSp n hspFar, hmemFar, hlogFar⟩⟩

/-- Settles O45: each of the seven is `jump_rel8` under its one flag. -/
theorem jumpsOnOneFlag : Obligations.JumpsOnOneFlag := by
  intro s disp
  have heffect (c : Bool) := jumpRel8_bool_effect s disp c
  simp only [List.forall_mem_cons]
  refine ⟨?jo, ?jno, ?jne, ?js, ?jns, ?jp, ?jnp, fun _ h => absurd h List.not_mem_nil⟩
  all_goals exact ⟨fun _ => rfl, _, rfl, heffect _⟩

/-- Settles O46: each of the nine is `jump_rel8` under its condition, and after CMP the condition is the comparison of its
name. -/
theorem jumpsAfterCompare : Obligations.JumpsAfterCompare := by
  intro s disp w a b
  simp only [List.forall_mem_cons]
  refine ⟨?jb, ?jnb, ?je, ?jbe, ?jnbe, ?jl, ?jnl, ?jle, ?jnle, fun _ h => absurd h List.not_mem_nil⟩
  case jb => exact ⟨fun _ => rfl, ⟨_, rfl, jumpRel8_effect s disp Iff.rfl⟩, difference_CF_iff_lt⟩
  case jnb =>
    exact ⟨fun _ => rfl, ⟨_, rfl, jumpRel8_effect s disp (by rw [Bool.not_eq_true'])⟩, difference_CF_eq_false_iff_le⟩
  case je => exact ⟨fun _ => rfl, ⟨_, rfl, jumpRel8_effect s disp Iff.rfl⟩, difference_ZF_iff_eq⟩
  case jbe =>
    exact ⟨fun _ => rfl, ⟨_, rfl, jumpRel8_effect s disp Bool.or_eq_true_iff⟩, difference_CF_or_ZF_iff_le⟩
  case jnbe =>
    have hc : (!s.flags.CF && !s.flags.ZF) = true ↔ s.flags.CF = false ∧ s.flags.ZF = false := by
      rw [Bool.and_eq_true, Bool.not_eq_true', Bool.not_eq_true']
    exact ⟨fun _ => rfl, ⟨_, rfl, jumpRel8_effect s disp hc⟩, difference_CF_and_ZF_iff_lt⟩
  case jl => exact ⟨fun _ => rfl, ⟨_, rfl, jumpRel8_effect s disp bne_iff_ne⟩, difference_SF_ne_OF_iff_lt⟩
  case jnl => exact ⟨fun _ => rfl, ⟨_, rfl, jumpRel8_effect s disp beq_iff_eq⟩, difference_SF_eq_OF_iff_le⟩
  case jle =>
    have hc : (s.flags.ZF || s.flags.SF != s.flags.OF) = true ↔ s.flags.ZF = true ∨ s.flags.SF ≠ s.flags.OF := by
      rw [Bool.or_eq_true, bne_iff_ne]
    exact ⟨fun _ => rfl, ⟨_, rfl, jumpRel8_effect s disp hc⟩, difference_ZF_or_SF_ne_OF_iff_le⟩
  case jnle =>
    have hc : (!s.flags.ZF && s.flags.SF == s.flags.OF) = true ↔ s.flags.ZF = false ∧ s.flags.SF = s.flags.OF := by
      rw [Bool.and_eq_true, Bool.not_eq_true', beq_iff_eq]
    exact ⟨fun _ => rfl, ⟨_, rfl, jumpRel8_effect s disp hc⟩, difference_ZF_and_SF_eq_OF_iff_lt⟩

/-- Settles O47: the three loops are `jump_rel8` after the count, under CX and ZF; JCXZ is `jump_rel8` where CX is 0. -/
theorem loopForms : Obligations.LoopForms := by
  intro s disp
  simp only [List.forall_mem_cons]
  refine ⟨⟨?loop, ?loopz, ?loopnz, fun _ h => absurd h List.not_mem_nil⟩, ?jcxz⟩
  case loop =>
    have hc : (s.countCx.gpr.cx != 0) = true ↔ s.gpr.cx ≠ 1 ∧ True := by
      rw [countCx_ne_zero_iff, and_true]
    exact ⟨fun _ => rfl, _, rfl, countCx_jumpRel8_effect s disp hc⟩
  case loopz => exact ⟨fun _ => rfl, _, rfl, countCx_jumpRel8_effect s disp (countCx_ne_zero_and_iff s _)⟩
  case loopnz => exact ⟨fun _ => rfl, _, rfl, countCx_jumpRel8_effect s disp (countCx_ne_zero_and_iff s _)⟩
  case jcxz => exact ⟨fun _ => rfl, _, rfl, jumpRel8_effect s disp beq_iff_eq⟩

end Sys2Proof.Machine
end

section
/-! PROOFS of 45_processor_control.md (O56): the instructions of one flag, and the delay of STI up to its own end. -/

namespace Sys2Proof.Machine
open Sys2Proof

/-! ### The end of an instruction under the interrupt-delay bit (R415, R428) -/

/-- Only a repeated string instruction and a WAIT that waits go on (R292, R397). -/
theorem unfinished_eq_false_iff (s : State) : s.unfinished = false ↔ s.running = none ∧ s.waiting = false := by
  simp only [State.unfinished, Bool.or_eq_false_iff, Option.isSome_eq_false_iff, Option.isNone_iff_eq_none]

/-- What is over and is no prefix byte leaves no prefix in force (R47). -/
theorem settlePrefixes_of_finished {s : State} {i : Instr} (hprefix : Instr.isPrefix i = false)
    (hover : s.unfinished = false) : s.settlePrefixes i = { s with pfx := Prefixes.none } := by
  simp [State.settlePrefixes, hprefix, hover]

/-- The delay bit keeps the end of an instruction from recognising anything, whatever is pending (R428). -/
theorem boundary_of_delay {s : State} (tf : Bool) (i : Instr) (hentered : s.entered = false) (hdelay : s.delay = true) :
    boundary tf i s = .next { s.settlePrefixes i with delay := false } := by
  simp [boundary, hentered, hdelay]

/-! ### STI -/

/-- The state after STI where no delay was due: IF set, and the delay bit says whether it was clear (R398, R428). -/
def State.stiDone (s : State) : State := { s with flags := { s.flags with IF := true }, delay := !s.flags.IF }

theorem exec_sti {s : State} (hdelay : s.delay = false) : exec .sti s = .next s.stiDone := by
  have harm : exec .sti s = .next (if s.flags.IF then s.setFlags { s.flags with IF := true }
      else (s.setFlags { s.flags with IF := true }).setDelay) := rfl
  rw [harm, State.stiDone]
  cases s.flags.IF with
  | true => rw [if_pos rfl, Bool.not_true, ← hdelay]; rfl
  | false => rfl

theorem stiDone_restSame (s : State) : { s with delay := !s.flags.IF }.restSame s.stiDone :=
  restSame_refl { s with delay := !s.flags.IF }

/-- Where IF was 0, STI's own end recognises nothing: it lifts the delay and ends the prefixes (R428). -/
theorem boundary_stiDone {s : State} (tf : Bool) (hIF : s.flags.IF = false) (hentered : s.entered = false)
    (hrunning : s.running = none) (hwaiting : s.waiting = false) :
    boundary tf .sti s.stiDone = .next { s.stiDone with pfx := Prefixes.none, delay := false } := by
  have hdelay : s.stiDone.delay = true := by rw [State.stiDone, hIF, Bool.not_false]
  have hover : s.stiDone.unfinished = false := (unfinished_eq_false_iff s.stiDone).mpr ⟨hrunning, hwaiting⟩
  rw [boundary_of_delay (s := s.stiDone) tf .sti hentered hdelay, settlePrefixes_of_finished rfl hover]

/-! ### The statement -/

/-- Settles O56: six of the seven write FLAGS alone; STI is `stiDone`, and its delay holds until its own end. -/
theorem flagOperations : Obligations.FlagOperations := by
  refine ⟨⟨fun _ => rfl, fun _ => rfl, fun _ => rfl, fun _ => rfl, fun _ => rfl, fun _ => rfl, fun _ => rfl⟩,
    fun s => ⟨?oneFlag, fun hdelay => ⟨s.stiDone, exec_sti hdelay, rfl, rfl, rfl, noStore_refl s, rfl, rfl,
      stiDone_restSame s, ?ownEnd⟩⟩⟩
  case oneFlag =>
    simp only [List.forall_mem_cons]
    refine ⟨?clc, ?cmc, ?stc, ?cld, ?std, ?cli, fun _ h => absurd h List.not_mem_nil⟩
    all_goals exact ⟨_, rfl, rfl, flagsOnly_setFlags s _⟩
  case ownEnd =>
    exact fun hIF hentered hrunning hwaiting tf =>
      ⟨_, boundary_stiDone tf hIF hentered hrunning hwaiting, rfl, rfl, rfl, rfl, rfl⟩

end Sys2Proof.Machine
end

section
/-! PROOFS of 30_encoding.md (O2, O3): the decoder and the encoder undo each other. -/

namespace Sys2Proof.Machine
open Sys2Proof

/-! ### The three fields of a second byte (R103) -/

@[simp] theorem modField_modRegRm (mod : BitVec 2) (reg rm : BitVec 3) : modField (modRegRm mod reg rm) = mod := by
  revert mod reg rm; decide

@[simp] theorem regField_modRegRm (mod : BitVec 2) (reg rm : BitVec 3) : regField (modRegRm mod reg rm) = reg := by
  revert mod reg rm; decide

@[simp] theorem rmField_modRegRm (mod : BitVec 2) (reg rm : BitVec 3) : rmField (modRegRm mod reg rm) = rm := by
  revert mod reg rm; decide

/-- No bit of a second byte is outside its three fields. -/
theorem modRegRm_fields (m : Byte) : modRegRm (modField m) (regField m) (rmField m) = m := by
  revert m; decide

/-! ### Codes and their bits -/

@[simp] theorem regCode_ofBits_toBits (r : RegCode) : RegCode.ofBits r.toBits = r := by cases r <;> rfl

@[simp] theorem regCode_toBits_ofBits (b : BitVec 3) : (RegCode.ofBits b).toBits = b := by revert b; decide

@[simp] theorem segReg_ofBits_toBits (r : SegReg) : SegReg.ofBits r.toBits = r := by cases r <;> rfl

@[simp] theorem segReg_toBits_ofBits (b : BitVec 2) : (SegReg.ofBits b).toBits = b := by revert b; decide

@[simp] theorem eaBase_ofBits_toBits (b : EaBase) : EaBase.ofBits b.toBits = b := by cases b <;> rfl

@[simp] theorem eaBase_toBits_ofBits (b : BitVec 3) : (EaBase.ofBits b).toBits = b := by revert b; decide

theorem eaBase_toBits_eq_six {b : EaBase} : b.toBits = 6#3 ↔ b = .bp := by cases b <;> decide

/-! ### What the decoder takes from what the encoder wrote -/

section
variable (rest : List Byte)

@[simp] theorem takeByte_cons (b : Byte) (k : Byte → List Byte → Decoded) : takeByte (b :: rest) k = k b rest := rfl

theorem takeWord_encWord (v : Word) (k : Word → List Byte → Decoded) : takeWord (encWord v ++ rest) k = k v rest := by
  simp [takeWord, encWord]

theorem takeImm_encImm (imm : Imm) (k : Imm → List Byte → Decoded) :
    takeImm imm.width (encImm imm ++ rest) k = k imm rest := by
  cases imm with
  | byte v => rfl
  | word v => exact takeWord_encWord rest v fun v bs => k (.word v) bs

/-- A memory operand is read back from its second byte and displacement (R106, R107). -/
theorem encMem_cons (reg : BitVec 3) {a : Mem} (h : a.wellFormed = true) :
    ∃ m bs, encMem reg a ++ rest = m :: bs ∧ regField m = reg ∧ modField m ≠ 3#2 ∧
      ∀ k, takeMem (modField m) (rmField m) bs k = k a rest := by
  cases a with
  | plain b =>
    have hbp : b.toBits ≠ 6#3 := fun e => by
      rw [eaBase_toBits_eq_six] at e; subst e; exact absurd h (by decide)
    exact ⟨_, _, rfl, by simp, by simp, fun k => by simp [takeMem, hbp]⟩
  | direct d => exact ⟨_, _, rfl, by simp, by simp, fun k => by simpa [takeMem] using takeWord_encWord rest d _⟩
  | disp8 b d => exact ⟨_, _, rfl, by simp, by simp, fun k => by simp [takeMem]⟩
  | disp16 b d => exact ⟨_, _, rfl, by simp, by simp, fun k => by simpa [takeMem] using takeWord_encWord rest d _⟩

/-- So is an r/m operand (R103, R104). -/
theorem encRm_cons (reg : BitVec 3) {rm : RM} (h : rm.wellFormed = true) :
    ∃ m bs, encRm reg rm ++ rest = m :: bs ∧ regField m = reg ∧ ∀ k, takeRm m bs k = k rm rest := by
  cases rm with
  | reg r => exact ⟨_, _, rfl, by simp, fun k => by simp [takeRm]⟩
  | mem a =>
    obtain ⟨m, bs, hcons, hreg, hmod, htake⟩ := encMem_cons rest reg h
    exact ⟨m, bs, hcons, hreg, fun k => by rw [takeRm, if_neg hmod, htake]⟩

end

/-! ### The shapes of an encoding

In each lemma `op` is the first byte and the hypothesis says what the decoder does after it; in a group the register field
of the second byte selects the instruction. -/

section
variable {op : Byte} {reg : BitVec 3} {rm : RM} {r : RegCode} {a : Mem} {imm : Imm} {v : Byte} {rest : List Byte}

theorem decode_regRm {f : RM → RegCode → Instr} (h : rm.wellFormed = true)
    (hop : ∀ bs, decode (op :: bs) = takeRegRm bs fun r rm bs => .ok (f rm r, bs)) :
    decode (op :: encRm r.toBits rm ++ rest) = .ok (f rm r, rest) := by
  obtain ⟨m, bs, hcons, hreg, htake⟩ := encRm_cons rest r.toBits h
  rw [List.cons_append, hop, hcons, takeRegRm, takeByte_cons, htake, hreg, regCode_ofBits_toBits]

theorem decode_regMem {f : RegCode → Mem → Instr} {res : BitVec 3 → BitVec 3 → Instr} (h : a.wellFormed = true)
    (hop : ∀ bs, decode (op :: bs) = takeRegMem bs res f) :
    decode (op :: encMem r.toBits a ++ rest) = .ok (f r a, rest) := by
  obtain ⟨m, bs, hcons, hreg, hmod, htake⟩ := encMem_cons rest r.toBits h
  rw [List.cons_append, hop, hcons, takeRegMem, takeByte_cons, if_neg hmod, htake, hreg, regCode_ofBits_toBits]

/-- With mod = 11 the same bytes are the reserved encoding (R119). -/
theorem decode_regMem_reserved {f : RegCode → Mem → Instr} {res : BitVec 3 → BitVec 3 → Instr} {x y : BitVec 3}
    (hop : ∀ bs, decode (op :: bs) = takeRegMem bs res f) :
    decode ([op, modRegRm 3#2 x y] ++ rest) = .ok (res x y, rest) := by
  simp [hop, takeRegMem]

theorem decode_groupRm {f : RM → Instr} (h : rm.wellFormed = true)
    (hop : ∀ m bs, regField m = reg → decode (op :: m :: bs) = takeRm m bs fun rm bs => .ok (f rm, bs)) :
    decode (op :: encRm reg rm ++ rest) = .ok (f rm, rest) := by
  obtain ⟨m, bs, hcons, hreg, htake⟩ := encRm_cons rest reg h
  rw [List.cons_append, hcons, hop m bs hreg, htake]

theorem decode_groupMem {f : Mem → Instr} (h : a.wellFormed = true)
    (hop : ∀ m bs, regField m = reg → modField m ≠ 3#2 →
      decode (op :: m :: bs) = takeMem (modField m) (rmField m) bs fun a bs => .ok (f a, bs)) :
    decode (op :: encMem reg a ++ rest) = .ok (f a, rest) := by
  obtain ⟨m, bs, hcons, hreg, hmod, htake⟩ := encMem_cons rest reg h
  rw [List.cons_append, hcons, hop m bs hreg hmod, htake]

theorem decode_groupRmImm {f : RM → Imm → Instr} (h : rm.wellFormed = true)
    (hop : ∀ m bs, regField m = reg →
      decode (op :: m :: bs) = takeRm m bs fun rm bs => takeImm imm.width bs fun imm bs => .ok (f rm imm, bs)) :
    decode (op :: (encRm reg rm ++ encImm imm) ++ rest) = .ok (f rm imm, rest) := by
  obtain ⟨m, bs, hcons, hreg, htake⟩ := encRm_cons (encImm imm ++ rest) reg h
  rw [List.cons_append, List.append_assoc, hcons, hop m bs hreg, htake, takeImm_encImm]

theorem decode_groupRmByte {f : RM → Byte → Instr} (h : rm.wellFormed = true)
    (hop : ∀ m bs, regField m = reg →
      decode (op :: m :: bs) = takeRm m bs fun rm bs => takeByte bs fun v bs => .ok (f rm v, bs)) :
    decode (op :: (encRm reg rm ++ [v]) ++ rest) = .ok (f rm v, rest) := by
  obtain ⟨m, bs, hcons, hreg, htake⟩ := encRm_cons ([v] ++ rest) reg h
  rw [List.cons_append, List.append_assoc, hcons, hop m bs hreg, htake]; rfl

theorem decode_accImm {f : Imm → Instr}
    (hop : ∀ w bs, decode (opW op w :: bs) = takeImm w bs fun imm bs => .ok (f imm, bs)) :
    decode (opW op imm.width :: encImm imm ++ rest) = .ok (f imm, rest) := by
  rw [List.cons_append, hop, takeImm_encImm]

theorem decode_word {f : Word → Instr} {x : Word}
    (hop : ∀ bs, decode (op :: bs) = takeWord bs fun x bs => .ok (f x, bs)) :
    decode (op :: encWord x ++ rest) = .ok (f x, rest) := by
  rw [List.cons_append, hop, takeWord_encWord]

theorem decode_twoWords {f : Word → Word → Instr} {x y : Word}
    (hop : ∀ bs, decode (op :: bs) = takeWord bs fun x bs => takeWord bs fun y bs => .ok (f x y, bs)) :
    decode (op :: (encWord x ++ encWord y) ++ rest) = .ok (f x y, rest) := by
  rw [List.cons_append, List.append_assoc, hop, takeWord_encWord, takeWord_encWord]

end

/-! ### First bytes that lead to a group -/

section
variable (bs : List Byte)

theorem decode_80 (w : Width) : decode (opW 0x80#8 w :: bs) = takeByte bs fun m bs => takeRm m bs fun rm bs =>
    takeImm w bs fun imm bs => .ok (aluRmImm (regField m) rm imm, bs) := by cases w <;> rfl
theorem decode_83 : decode (0x83#8 :: bs) = decode83 bs := rfl
theorem decode_8C : decode (0x8C#8 :: bs) = decode8C bs := rfl
theorem decode_8E : decode (0x8E#8 :: bs) = decode8E bs := rfl
theorem decode_8F : decode (0x8F#8 :: bs) = decode8F bs := rfl
theorem decode_C6 (w : Width) : decode (opW 0xC6#8 w :: bs) = decodeC6 w bs := by cases w <;> rfl
theorem decode_D0 (v : Bool) (w : Width) : decode (opDW 0xD0#8 v w :: bs) = decodeShift v w bs := by
  cases v <;> cases w <;> rfl
theorem decode_F6 (w : Width) : decode (opW 0xF6#8 w :: bs) = decodeF6 w bs := by cases w <;> rfl
theorem decode_FE : decode (0xFE#8 :: bs) = decodeFE bs := rfl
theorem decode_FF : decode (0xFF#8 :: bs) = decodeFF bs := rfl

/-- D8H to DFH: three of ESC's x bits stand in the first byte (R399). -/
theorem decode_D8 (hi : BitVec 3) : decode (opReg 0xD8#8 hi :: bs) =
    takeByte bs fun m bs => takeRm m bs fun rm bs => .ok (.esc hi (regField m) rm, bs) := by
  have hfields : ∀ hi : BitVec 3, modField (opReg 0xD8#8 hi) = 3#2 ∧ regField (opReg 0xD8#8 hi) = 3#3 ∧
      rmField (opReg 0xD8#8 hi) = hi := by decide
  obtain ⟨hmod, hreg, hrm⟩ := hfields hi
  simp [decode, decodeOpcode, decodeQ3, hmod, hreg, hrm]

end

/-! ### The bytes whose fields overlap -/

/-- 8CH: bits 5 to 3 of the second byte are a 0 and the segment register (R105, R156). -/
theorem regField_segReg {m : Byte} {x : BitVec 2} (h : regField m = 0#1 ++ x) :
    m[5] = false ∧ m.extractLsb' 3 2 = x := by
  revert m x; decide

/-- 8CH, 8EH: bit 5 of the second byte makes the encoding reserved (R119). -/
theorem bitFive_fields (mod : BitVec 2) (lo : BitVec 5) :
    (mod ++ 1#1 ++ lo : Byte).getLsbD 5 = true ∧ modField (mod ++ 1#1 ++ lo) = mod ∧
      (mod ++ 1#1 ++ lo : Byte).extractLsb' 0 5 = lo ∧ ∃ z : BitVec 2, regField (mod ++ 1#1 ++ lo) = 1#1 ++ z := by
  revert mod lo; decide

/-- A group whose selecting field has its top bit set, with the members 4 to 7 all alike. -/
theorem decode8E_bitFive {m : Byte} {z : BitVec 2} (h : regField m = 1#1 ++ z) (bs : List Byte) :
    decode8E (m :: bs) = .ok (.res8E (modField m) (m.extractLsb' 0 5), bs) := by
  have hall : ∀ z : BitVec 2, z = 0#2 ∨ z = 1#2 ∨ z = 2#2 ∨ z = 3#2 := by decide
  rcases hall z with rfl | rfl | rfl | rfl <;> simp [decode8E, h]

/-- FFH F4H is the one encoding of its shape that is no PUSH r/m16 (R159): no other operand has the second byte F4H. -/
theorem encRm_ne_F4 {rm : RM} (h : rm.wellFormed = true) (hsp : rm.notSp = true) (bs rest : List Byte) :
    encRm 6#3 rm ++ rest ≠ 0xF4#8 :: bs := by
  intro heq
  obtain ⟨m, ms, hcons, -, htake⟩ := encRm_cons rest 6#3 h
  obtain ⟨rfl, rfl⟩ : m = 0xF4#8 ∧ ms = bs := by simpa [hcons] using heq
  have hread : (.ok (.pushRm16 (.reg .r100), ms) : Decoded) = .ok (.pushRm16 rm, rest) :=
    htake fun rm bs => .ok (.pushRm16 rm, bs)
  obtain rfl : RM.reg .r100 = rm := by injection hread with hpair; injection hpair with hi; injection hi
  exact absurd hsp (by decide)

/-- 60H to 6FH are one row of the table, their low four bits in two places of the decoder (R119). -/
theorem decode_res60 (lo : BitVec 4) (bs : List Byte) :
    decode ((0x60#8 ||| lo.setWidth 8) :: bs) = .ok (.res60 lo, bs) := by
  have hfields : ∀ lo : BitVec 4, modField (0x60#8 ||| lo.setWidth 8) = 1#2 ∧
      (regField (0x60#8 ||| lo.setWidth 8) = 4#3 ∧ 0#1 ++ rmField (0x60#8 ||| lo.setWidth 8) = lo ∨
        regField (0x60#8 ||| lo.setWidth 8) = 5#3 ∧ 1#1 ++ rmField (0x60#8 ||| lo.setWidth 8) = lo) := by decide
  obtain ⟨hmod, ⟨hreg, hlo⟩ | ⟨hreg, hlo⟩⟩ := hfields lo
  · simp [decode, decodeOpcode, decodeQ1, hmod, hreg, hlo]
  · simp [decode, decodeOpcode, decodeQ1, hmod, hreg, hlo]

/-! ### What the decoder reads -/

/-- Whatever `d` answers is well formed, and `whole` is its encoding with the bytes left over. -/
def Reads (whole : List Byte) (d : Decoded) : Prop :=
  ∀ i rest, d = .ok (i, rest) → WellFormed i = true ∧ whole = encode i ++ rest

section
variable {whole bs : List Byte}

theorem reads_ok {i : Instr} (hwf : WellFormed i = true) (h : whole = encode i ++ bs) : Reads whole (.ok (i, bs)) := by
  rintro j rest ⟨rfl⟩
  exact ⟨hwf, h⟩

theorem reads_takeByte {k : Byte → List Byte → Decoded} (h : ∀ b rest, bs = b :: rest → Reads whole (k b rest)) :
    Reads whole (takeByte bs k) := by
  cases bs with
  | nil => rintro i rest ⟨⟩
  | cons b rest => exact h b rest rfl

theorem reads_takeWord {k : Word → List Byte → Decoded} (h : ∀ v rest, bs = encWord v ++ rest → Reads whole (k v rest)) :
    Reads whole (takeWord bs k) := by
  refine reads_takeByte fun lo bs1 hlo => reads_takeByte fun hi rest hhi => h _ rest ?_
  rw [hlo, hhi, encWord, lowByte_wordOf, highByte_wordOf]; rfl

theorem reads_takeImm {w : Width} {k : Imm → List Byte → Decoded}
    (h : ∀ imm rest, imm.width = w → bs = encImm imm ++ rest → Reads whole (k imm rest)) :
    Reads whole (takeImm w bs k) := by
  cases w with
  | byte => exact reads_takeByte fun v rest hv => h (.byte v) rest rfl hv
  | word => exact reads_takeWord fun v rest hv => h (.word v) rest rfl hv

/-- Every second byte but those with mod = 11 is a memory operand's (R106). -/
theorem reads_takeMem {m : Byte} (hmod : modField m ≠ 3#2) {k : Mem → List Byte → Decoded}
    (h : ∀ a rest, a.wellFormed = true → m :: bs = encMem (regField m) a ++ rest → Reads whole (k a rest)) :
    Reads whole (takeMem (modField m) (rmField m) bs k) := by
  have hm := modRegRm_fields m
  have hall : ∀ x : BitVec 2, x = 0#2 ∨ x = 1#2 ∨ x = 2#2 ∨ x = 3#2 := by decide
  rcases hall (modField m) with h0 | h1 | h2 | h3
  · rw [h0] at hm ⊢
    by_cases hrm : rmField m = 6#3
    · rw [hrm] at hm
      rw [takeMem, if_pos hrm]
      exact reads_takeWord fun a rest ha => h _ rest rfl (by rw [ha, encMem, hm]; rfl)
    · rw [takeMem, if_neg hrm]
      have hbp : EaBase.ofBits (rmField m) ≠ .bp := fun e => hrm (by
        rw [← eaBase_toBits_ofBits (rmField m), e]; rfl)
      exact h _ bs (by simpa [Mem.wellFormed] using hbp) (by simp [encMem, hm])
  · rw [h1] at hm ⊢
    exact reads_takeByte fun d rest hd => h _ rest rfl (by simp [hd, encMem, hm])
  · rw [h2] at hm ⊢
    exact reads_takeWord fun d rest hd => h (.disp16 _ d) rest rfl (by simp [hd, encMem, hm])
  · exact absurd h3 hmod

theorem reads_takeRm {m : Byte} {k : RM → List Byte → Decoded}
    (h : ∀ rm rest, rm.wellFormed = true → m :: bs = encRm (regField m) rm ++ rest → Reads whole (k rm rest)) :
    Reads whole (takeRm m bs k) := by
  unfold takeRm
  split
  · next hmod =>
    have hm := modRegRm_fields m
    exact h _ bs rfl (by simp [encRm, ← hmod, hm])
  · next hmod => exact reads_takeMem hmod fun a rest ha hb => h _ rest ha hb

theorem reads_takeRegRm {k : RegCode → RM → List Byte → Decoded}
    (h : ∀ r rm rest, rm.wellFormed = true → bs = encRm r.toBits rm ++ rest → Reads whole (k r rm rest)) :
    Reads whole (takeRegRm bs k) :=
  reads_takeByte fun m ms hm => reads_takeRm fun rm rest hrm hb => h _ rm rest hrm (by rw [hm, hb, regCode_toBits_ofBits])

theorem reads_takeRegMem {res : BitVec 3 → BitVec 3 → Instr} {f : RegCode → Mem → Instr}
    (hres : ∀ x y rest, bs = modRegRm 3#2 x y :: rest → Reads whole (.ok (res x y, rest)))
    (h : ∀ r a rest, a.wellFormed = true → bs = encMem r.toBits a ++ rest → Reads whole (.ok (f r a, rest))) :
    Reads whole (takeRegMem bs res f) := by
  refine reads_takeByte fun m ms hm => ?_
  split
  · next hmod => exact hres _ _ ms (by rw [← hmod, modRegRm_fields, hm])
  · next hmod =>
    exact reads_takeMem hmod fun a rest ha hb => h _ a rest ha (by rw [hm, hb, regCode_toBits_ofBits])

end

/-! ### The shapes of an encoding -/

section
variable (bs : List Byte)

theorem reads_byte {op : Byte} {f : Byte → Instr} (hwf : ∀ v, WellFormed (f v) = true)
    (henc : ∀ v, encode (f v) = [op, v]) : Reads (op :: bs) (takeByte bs fun v bs => .ok (f v, bs)) :=
  reads_takeByte fun v rest hv => reads_ok (hwf v) (by rw [hv, henc]; rfl)

theorem reads_word {op : Byte} {f : Word → Instr} (hwf : ∀ v, WellFormed (f v) = true)
    (henc : ∀ v, encode (f v) = op :: encWord v) : Reads (op :: bs) (takeWord bs fun v bs => .ok (f v, bs)) :=
  reads_takeWord fun v rest hv => reads_ok (hwf v) (by rw [hv, henc]; rfl)

theorem reads_twoWords {op : Byte} {f : Word → Word → Instr} (hwf : ∀ x y, WellFormed (f x y) = true)
    (henc : ∀ x y, encode (f x y) = op :: (encWord x ++ encWord y)) :
    Reads (op :: bs) (takeWord bs fun x bs => takeWord bs fun y bs => .ok (f x y, bs)) :=
  reads_takeWord fun x _ hx => reads_takeWord fun y rest hy =>
    reads_ok (hwf x y) (by rw [hx, hy, henc]; simp)

theorem reads_imm (op : Byte) (w : Width) {f : Imm → Instr} (hwf : ∀ imm, WellFormed (f imm) = true)
    (henc : ∀ imm, encode (f imm) = opW op imm.width :: encImm imm) :
    Reads (opW op w :: bs) (takeImm w bs fun imm bs => .ok (f imm, bs)) :=
  reads_takeImm fun imm rest hw hb => reads_ok (hwf imm) (by rw [hb, henc, hw]; rfl)

theorem reads_regRm {op : Byte} {f : RM → RegCode → Instr} (hwf : ∀ rm r, rm.wellFormed = true → WellFormed (f rm r) = true)
    (henc : ∀ rm r, encode (f rm r) = op :: encRm r.toBits rm) :
    Reads (op :: bs) (takeRegRm bs fun r rm bs => .ok (f rm r, bs)) :=
  reads_takeRegRm fun r rm rest hrm hb => reads_ok (hwf rm r hrm) (by rw [hb, henc]; rfl)

theorem reads_regMem {op : Byte} {res : BitVec 3 → BitVec 3 → Instr} {f : RegCode → Mem → Instr}
    (hwfRes : ∀ x y, WellFormed (res x y) = true) (hencRes : ∀ x y, encode (res x y) = [op, modRegRm 3#2 x y])
    (hwf : ∀ r a, a.wellFormed = true → WellFormed (f r a) = true)
    (henc : ∀ r a, encode (f r a) = op :: encMem r.toBits a) : Reads (op :: bs) (takeRegMem bs res f) :=
  reads_takeRegMem (fun x y rest hb => reads_ok (hwfRes x y) (by rw [hb, hencRes]; rfl))
    fun r a rest ha hb => reads_ok (hwf r a ha) (by rw [hb, henc]; rfl)

/-- D4H and D5H: the second byte 0AH makes the instruction, any other is kept in the reserved one (R119). -/
theorem reads_fixedByte {op : Byte} {i : Instr} {res : Byte → Instr} (hwf : WellFormed i = true)
    (henc : encode i = [op, 0x0A#8]) (hwfRes : ∀ v, v ≠ 0x0A#8 → WellFormed (res v) = true)
    (hencRes : ∀ v, encode (res v) = [op, v]) :
    Reads (op :: bs) (takeByte bs fun v bs => .ok (if v = 0x0A#8 then i else res v, bs)) := by
  refine reads_takeByte fun v rest hv => hv ▸ ?_
  split
  · next h0A => exact reads_ok hwf (by rw [henc, h0A]; rfl)
  · next h0A => exact reads_ok (hwfRes v h0A) (by rw [hencRes]; rfl)

end

/-! ### The members of a group, by the register field -/

/-- A field of three bits has one of eight values: the eliminator the proofs below split by. -/
theorem threeBits {motive : BitVec 3 → Prop} (b000 : motive 0#3) (b001 : motive 1#3) (b010 : motive 2#3)
    (b011 : motive 3#3) (b100 : motive 4#3) (b101 : motive 5#3) (b110 : motive 6#3) (b111 : motive 7#3)
    (z : BitVec 3) : motive z := by
  have hall : ∀ z : BitVec 3, z = 0#3 ∨ z = 1#3 ∨ z = 2#3 ∨ z = 3#3 ∨ z = 4#3 ∨ z = 5#3 ∨ z = 6#3 ∨ z = 7#3 := by
    decide
  rcases hall z with rfl | rfl | rfl | rfl | rfl | rfl | rfl | rfl <;> assumption

section
variable {op m : Byte} {bs : List Byte} {reg : BitVec 3}

/-- A member with an r/m operand. -/
theorem reads_groupRm {f : RM → Instr} (hreg : regField m = reg)
    (hwf : ∀ rm, rm.wellFormed = true → WellFormed (f rm) = true) (henc : ∀ rm, encode (f rm) = op :: encRm reg rm) :
    Reads (op :: m :: bs) (takeRm m bs fun rm bs => .ok (f rm, bs)) :=
  reads_takeRm fun rm rest hrm hb => reads_ok (hwf rm hrm) (by rw [hb, hreg, henc]; rfl)

/-- A member with an r/m operand and a byte. -/
theorem reads_groupRmByte {f : RM → Byte → Instr} (hreg : regField m = reg)
    (hwf : ∀ rm v, rm.wellFormed = true → WellFormed (f rm v) = true)
    (henc : ∀ rm v, encode (f rm v) = op :: (encRm reg rm ++ [v])) :
    Reads (op :: m :: bs) (takeRm m bs fun rm bs => takeByte bs fun v bs => .ok (f rm v, bs)) :=
  reads_takeRm fun rm _ hrm hb => reads_takeByte fun v rest hv =>
    reads_ok (hwf rm v hrm) (by rw [hb, hv, hreg, henc]; simp)

/-- A member with an r/m operand and immediate data. -/
theorem reads_groupRmImm {w : Width} {f : RM → Imm → Instr} (hreg : regField m = reg)
    (hwf : ∀ rm imm, rm.wellFormed = true → WellFormed (f rm imm) = true)
    (henc : ∀ rm imm, imm.width = w → encode (f rm imm) = op :: (encRm reg rm ++ encImm imm)) :
    Reads (op :: m :: bs) (takeRm m bs fun rm bs => takeImm w bs fun imm bs => .ok (f rm imm, bs)) :=
  reads_takeRm fun rm _ hrm hb => reads_takeImm fun imm rest hw hi =>
    reads_ok (hwf rm imm hrm) (by rw [hb, hi, hreg, henc rm imm hw]; simp)

/-- A reserved member, which keeps the bits of the second byte that do not select it (R119). -/
theorem reads_groupReserved {f : BitVec 2 → BitVec 3 → Instr} (hreg : regField m = reg)
    (hwf : ∀ mod rm, WellFormed (f mod rm) = true) (henc : ∀ mod rm, encode (f mod rm) = [op, modRegRm mod reg rm]) :
    Reads (op :: m :: bs) (.ok (f (modField m) (rmField m), bs)) :=
  reads_ok (hwf _ _) (by rw [henc, ← hreg, modRegRm_fields]; rfl)

/-- A far pointer's operand is a memory operand; with mod = 11 the member is reserved (R119). -/
theorem reads_groupMem {res : BitVec 3 → Instr} {f : Mem → Instr}
    (hreg : regField m = reg) (hwfRes : ∀ rm, WellFormed (res rm) = true)
    (hencRes : ∀ rm, encode (res rm) = [op, modRegRm 3#2 reg rm])
    (hwf : ∀ a, a.wellFormed = true → WellFormed (f a) = true) (henc : ∀ a, encode (f a) = op :: encMem reg a) :
    Reads (op :: m :: bs) (if modField m = 3#2 then .ok (res (rmField m), bs)
      else takeMem (modField m) (rmField m) bs fun a bs => .ok (f a, bs)) := by
  split
  · next hmod => exact reads_ok (hwfRes _) (by rw [hencRes, ← hmod, ← hreg, modRegRm_fields]; rfl)
  · next hmod =>
    exact reads_takeMem hmod fun a rest ha hb => reads_ok (hwf a ha) (by rw [hb, hreg, henc]; rfl)

end

/-! ### The groups -/

section
variable (bs : List Byte)

theorem reads_83 : Reads (0x83#8 :: bs) (decode83 bs) := by
  refine reads_takeByte fun m ms hm => hm ▸ ?_
  generalize hreg : regField m = z
  cases z using threeBits with
  | b000 | b010 | b011 | b101 | b111 => exact reads_groupRmByte hreg (fun _ _ hrm => hrm) fun _ _ => rfl
  | b001 | b100 | b110 => exact reads_groupReserved hreg (fun _ _ => rfl) fun _ _ => rfl

/-- Bit 5 and the five bits below it are what the register and r/m fields hold (R119). -/
theorem bitFive_whole {m : Byte} (h : m.getLsbD 5 = true) : modField m ++ 1#1 ++ m.extractLsb' 0 5 = m := by
  revert m; decide

theorem regField_of_not_bitFive {m : Byte} (h : m.getLsbD 5 = false) : regField m = 0#1 ++ m.extractLsb' 3 2 := by
  revert m; decide

theorem bitFive_of_regField {m : Byte} {z : BitVec 2} (h : regField m = 1#1 ++ z) : m.getLsbD 5 = true := by
  revert m z; decide

theorem reads_8C : Reads (0x8C#8 :: bs) (decode8C bs) := by
  refine reads_takeByte fun m ms hm => hm ▸ ?_
  split
  · next hbit => exact reads_ok rfl (by rw [encode, bitFive_whole hbit]; rfl)
  · next hbit =>
    have hreg := regField_of_not_bitFive (Bool.eq_false_iff.mpr hbit)
    exact reads_groupRm hreg (fun _ hrm => hrm) fun _ => by rw [encode, segReg_toBits_ofBits]

theorem reads_8E : Reads (0x8E#8 :: bs) (decode8E bs) := by
  refine reads_takeByte fun m ms hm => hm ▸ ?_
  have hreserved (z : BitVec 2) (h : regField m = 1#1 ++ z) :
      Reads (0x8E#8 :: m :: ms) (.ok (.res8E (modField m) (m.extractLsb' 0 5), ms)) :=
    reads_ok rfl (by rw [encode, bitFive_whole (bitFive_of_regField h)]; rfl)
  generalize hreg : regField m = z
  cases z using threeBits with
  | b000 | b010 | b011 => exact reads_groupRm hreg (fun _ hrm => hrm) fun _ => rfl
  | b001 => exact reads_groupReserved hreg (fun _ _ => rfl) fun _ _ => rfl
  | b100 => exact hreserved 0#2 hreg
  | b101 => exact hreserved 1#2 hreg
  | b110 => exact hreserved 2#2 hreg
  | b111 => exact hreserved 3#2 hreg

theorem reads_8F : Reads (0x8F#8 :: bs) (decode8F bs) := by
  refine reads_takeByte fun m ms hm => hm ▸ ?_
  generalize hreg : regField m = z
  cases z using threeBits with
  | b000 => exact reads_groupRm hreg (fun _ hrm => hrm) fun _ => rfl
  | _ => exact reads_groupReserved hreg (fun _ _ => rfl) fun _ _ => rfl

theorem reads_C6 (w : Width) : Reads (opW 0xC6#8 w :: bs) (decodeC6 w bs) := by
  refine reads_takeByte fun m ms hm => hm ▸ ?_
  generalize hreg : regField m = z
  cases z using threeBits with
  | b000 => exact reads_groupRmImm hreg (fun _ _ hrm => hrm) fun _ _ hw => hw ▸ rfl
  | _ => exact reads_groupReserved hreg (fun _ _ => rfl) fun _ _ => rfl

theorem reads_D0 (v : Bool) (w : Width) : Reads (opDW 0xD0#8 v w :: bs) (decodeShift v w bs) := by
  refine reads_takeByte fun m ms hm => hm ▸ ?_
  generalize hreg : regField m = z
  cases z using threeBits with
  | b110 => exact reads_groupReserved hreg (fun _ _ => rfl) fun _ _ => rfl
  | _ => exact reads_groupRm hreg (fun _ hrm => hrm) fun _ => rfl

theorem reads_F6 (w : Width) : Reads (opW 0xF6#8 w :: bs) (decodeF6 w bs) := by
  refine reads_takeByte fun m ms hm => hm ▸ ?_
  generalize hreg : regField m = z
  cases z using threeBits with
  | b000 => exact reads_groupRmImm hreg (fun _ _ hrm => hrm) fun _ _ hw => hw ▸ rfl
  | b001 => exact reads_groupReserved hreg (fun _ _ => rfl) fun _ _ => rfl
  | _ => exact reads_groupRm hreg (fun _ hrm => hrm) fun _ => rfl

theorem reads_FE : Reads (0xFE#8 :: bs) (decodeFE bs) := by
  refine reads_takeByte fun m ms hm => hm ▸ ?_
  generalize hreg : regField m = z
  cases z using threeBits with
  | b000 | b001 => exact reads_groupRm hreg (fun _ hrm => hrm) fun _ => rfl
  | _ => exact reads_groupReserved hreg (fun _ _ => rfl) fun _ _ => rfl

/-- FFH /6 reads SP as its operand from the second byte F4H alone (R159). -/
theorem notSp_of_ne_F4 {m : Byte} {rm : RM} {ms rest : List Byte} (hm : m ≠ 0xF4#8)
    (hb : m :: ms = encRm 6#3 rm ++ rest) : rm.notSp = true := by
  cases rm with
  | mem a => rfl
  | reg r =>
    obtain ⟨rfl, -⟩ : m = modRegRm 3#2 6#3 r.toBits ∧ ms = rest := by simpa [encRm] using hb
    cases r <;> first | rfl | exact absurd rfl hm

theorem reads_FF : Reads (0xFF#8 :: bs) (decodeFF bs) := by
  refine reads_takeByte fun m ms hm => hm ▸ ?_
  generalize hreg : regField m = z
  cases z using threeBits with
  | b000 | b001 | b010 | b100 => exact reads_groupRm hreg (fun _ hrm => hrm) fun _ => rfl
  | b011 | b101 => exact reads_groupMem hreg (fun _ => rfl) (fun _ => rfl) (fun _ ha => ha) fun _ => rfl
  | b110 =>
    show Reads _ (if m = 0xF4#8 then _ else _)
    split
    · next hF4 => exact reads_ok rfl (by rw [hF4]; rfl)
    · next hF4 =>
      refine reads_takeRm fun rm rest hrm hb => reads_ok ?_ (by rw [hb, hreg]; rfl)
      rw [hreg] at hb
      rw [WellFormed, hrm, notSp_of_ne_F4 hF4 hb]; rfl
  | b111 => exact reads_groupReserved hreg (fun _ _ => rfl) fun _ _ => rfl

/-! ### The quarters of the first byte -/

theorem encode_aluRmReg (o : BitVec 3) (d : Bool) (w : Width) (rm : RM) (r : RegCode) :
    encode (aluRmReg o d w rm r) = opDW (modRegRm 0#2 o 0#3) d w :: encRm r.toBits rm ∧
      WellFormed (aluRmReg o d w rm r) = rm.wellFormed := by
  cases o using threeBits <;> exact ⟨rfl, rfl⟩

theorem encode_aluAccImm (o : BitVec 3) (imm : Imm) :
    encode (aluAccImm o imm) = opW (modRegRm 0#2 o 4#3) imm.width :: encImm imm ∧ WellFormed (aluAccImm o imm) = true := by
  cases o using threeBits <;> exact ⟨rfl, rfl⟩

theorem encode_aluRmImm (o : BitVec 3) (rm : RM) (imm : Imm) :
    encode (aluRmImm o rm imm) = opW 0x80#8 imm.width :: (encRm o rm ++ encImm imm) ∧
      WellFormed (aluRmImm o rm imm) = rm.wellFormed := by
  cases o using threeBits <;> exact ⟨rfl, rfl⟩

theorem reads_80 (w : Width) : Reads (opW 0x80#8 w :: bs) (takeByte bs fun m bs => takeRm m bs fun rm bs =>
    takeImm w bs fun imm bs => .ok (aluRmImm (regField m) rm imm, bs)) :=
  reads_takeByte fun _ _ hm => hm ▸ reads_groupRmImm rfl (fun rm imm hrm => (encode_aluRmImm _ rm imm).2.trans hrm)
    fun rm imm hw => hw ▸ (encode_aluRmImm _ rm imm).1

theorem reads_Q0 (o z : BitVec 3) : Reads (modRegRm 0#2 o z :: bs) (decodeQ0 o z bs) := by
  have hrm (d : Bool) (w : Width) {x : BitVec 3} (hx : ∀ o, opDW (modRegRm 0#2 o 0#3) d w = modRegRm 0#2 o x) :
      Reads (modRegRm 0#2 o x :: bs) (takeRegRm bs fun r rm bs => .ok (aluRmReg o d w rm r, bs)) :=
    hx o ▸ reads_regRm bs (fun rm r h => (encode_aluRmReg o d w rm r).2.trans h)
      fun rm r => (encode_aluRmReg o d w rm r).1
  have himm (w : Width) {x : BitVec 3} (hx : ∀ o, opW (modRegRm 0#2 o 4#3) w = modRegRm 0#2 o x) :
      Reads (modRegRm 0#2 o x :: bs) (takeImm w bs fun imm bs => .ok (aluAccImm o imm, bs)) :=
    hx o ▸ reads_imm bs _ w (fun imm => (encode_aluAccImm o imm).2) fun imm => (encode_aluAccImm o imm).1
  cases z using threeBits with
  | b000 => exact hrm false .byte (by decide)
  | b001 => exact hrm false .word (by decide)
  | b010 => exact hrm true .byte (by decide)
  | b011 => exact hrm true .word (by decide)
  | b100 => exact himm .byte (by decide)
  | b101 => exact himm .word (by decide)
  | b110 | b111 => cases o using threeBits <;> exact reads_ok rfl rfl

theorem reads_Q1 (o z : BitVec 3) : Reads (modRegRm 1#2 o z :: bs) (decodeQ1 o z bs) := by
  cases o using threeBits with
  | b000 | b001 | b010 | b011 | b100 | b101 => cases z using threeBits <;> exact reads_ok rfl rfl
  | b110 | b111 => cases z using threeBits <;> exact reads_byte bs (fun _ => rfl) fun _ => rfl

theorem reads_80to87 (z : BitVec 3) : Reads (modRegRm 2#2 0#3 z :: bs) (decode80 z bs) := by
  cases z using threeBits with
  | b000 => exact reads_80 bs .byte
  | b001 => exact reads_80 bs .word
  | b010 => exact reads_ok rfl rfl
  | b011 => exact reads_83 bs
  | b100 | b101 | b110 | b111 => exact reads_regRm bs (fun _ _ hrm => hrm) fun _ _ => rfl

theorem reads_88to8F (z : BitVec 3) : Reads (modRegRm 2#2 1#3 z :: bs) (decode88 z bs) := by
  cases z using threeBits with
  | b000 | b001 | b010 | b011 => exact reads_regRm bs (fun _ _ hrm => hrm) fun _ _ => rfl
  | b100 => exact reads_8C bs
  | b101 => exact reads_regMem bs (fun _ _ => rfl) (fun _ _ => rfl) (fun _ _ ha => ha) fun _ _ => rfl
  | b110 => exact reads_8E bs
  | b111 => exact reads_8F bs

theorem reads_Q2 (o z : BitVec 3) : Reads (modRegRm 2#2 o z :: bs) (decodeQ2 o z bs) := by
  cases o using threeBits with
  | b000 => exact reads_80to87 bs z
  | b001 => exact reads_88to8F bs z
  | b010 => cases z using threeBits <;> exact reads_ok rfl rfl
  | b011 =>
    cases z using threeBits with
    | b010 => exact reads_twoWords bs (fun _ _ => rfl) fun _ _ => rfl
    | _ => exact reads_ok rfl rfl
  | b100 =>
    cases z using threeBits with
    | b000 | b001 | b010 | b011 => exact reads_word bs (fun _ => rfl) fun _ => rfl
    | _ => exact reads_ok rfl rfl
  | b101 =>
    cases z using threeBits with
    | b000 => exact reads_imm bs 0xA8#8 .byte (fun _ => rfl) fun _ => rfl
    | b001 => exact reads_imm bs 0xA8#8 .word (fun _ => rfl) fun _ => rfl
    | _ => exact reads_ok rfl rfl
  | b110 => cases z using threeBits <;> exact reads_byte bs (fun _ => rfl) fun _ => rfl
  | b111 => cases z using threeBits <;> exact reads_word bs (fun _ => rfl) fun _ => rfl

theorem reads_C0toC7 (z : BitVec 3) : Reads (modRegRm 3#2 0#3 z :: bs) (decodeC0 z bs) := by
  cases z using threeBits with
  | b000 | b001 | b011 => exact reads_ok rfl rfl
  | b010 => exact reads_word bs (fun _ => rfl) fun _ => rfl
  | b100 | b101 => exact reads_regMem bs (fun _ _ => rfl) (fun _ _ => rfl) (fun _ _ ha => ha) fun _ _ => rfl
  | b110 => exact reads_C6 bs .byte
  | b111 => exact reads_C6 bs .word

theorem reads_C8toCF (z : BitVec 3) : Reads (modRegRm 3#2 1#3 z :: bs) (decodeC8 z bs) := by
  cases z using threeBits with
  | b010 => exact reads_word bs (fun _ => rfl) fun _ => rfl
  | b101 => exact reads_byte bs (fun _ => rfl) fun _ => rfl
  | _ => exact reads_ok rfl rfl

theorem reads_D0toD7 (z : BitVec 3) : Reads (modRegRm 3#2 2#3 z :: bs) (decodeD0 z bs) := by
  cases z using threeBits with
  | b000 => exact reads_D0 bs false .byte
  | b001 => exact reads_D0 bs false .word
  | b010 => exact reads_D0 bs true .byte
  | b011 => exact reads_D0 bs true .word
  | b100 | b101 => exact reads_fixedByte bs rfl rfl (fun _ hv => bne_iff_ne.mpr hv) fun _ => rfl
  | b110 | b111 => exact reads_ok rfl rfl

theorem reads_E0toEF (z : BitVec 3) :
    Reads (modRegRm 3#2 4#3 z :: bs) (decodeE0 z bs) ∧ Reads (modRegRm 3#2 5#3 z :: bs) (decodeE8 z bs) := by
  constructor
  · cases z using threeBits <;> exact reads_byte bs (fun _ => rfl) fun _ => rfl
  · cases z using threeBits with
    | b000 | b001 => exact reads_word bs (fun _ => rfl) fun _ => rfl
    | b010 => exact reads_twoWords bs (fun _ _ => rfl) fun _ _ => rfl
    | b011 => exact reads_byte bs (fun _ => rfl) fun _ => rfl
    | _ => exact reads_ok rfl rfl

theorem reads_F0toFF (z : BitVec 3) :
    Reads (modRegRm 3#2 6#3 z :: bs) (decodeF0 z bs) ∧ Reads (modRegRm 3#2 7#3 z :: bs) (decodeF8 z bs) := by
  constructor
  · cases z using threeBits with
    | b110 => exact reads_F6 bs .byte
    | b111 => exact reads_F6 bs .word
    | _ => exact reads_ok rfl rfl
  · cases z using threeBits with
    | b110 => exact reads_FE bs
    | b111 => exact reads_FF bs
    | _ => exact reads_ok rfl rfl

theorem reads_D8toDF (z : BitVec 3) : Reads (modRegRm 3#2 3#3 z :: bs)
    (takeByte bs fun m bs => takeRm m bs fun rm bs => .ok (.esc z (regField m) rm, bs)) := by
  have hop : ∀ z : BitVec 3, modRegRm 3#2 3#3 z = opReg 0xD8#8 z := by decide
  exact reads_takeByte fun m ms hm => hm ▸ hop z ▸ reads_groupRm rfl (fun _ hrm => hrm) fun _ => rfl

theorem reads_Q3 (o z : BitVec 3) : Reads (modRegRm 3#2 o z :: bs) (decodeQ3 o z bs) := by
  cases o using threeBits with
  | b000 => exact reads_C0toC7 bs z
  | b001 => exact reads_C8toCF bs z
  | b010 => exact reads_D0toD7 bs z
  | b011 => exact reads_D8toDF bs z
  | b100 => exact (reads_E0toEF bs z).1
  | b101 => exact (reads_E0toEF bs z).2
  | b110 => exact (reads_F0toFF bs z).1
  | b111 => exact (reads_F0toFF bs z).2

theorem reads_opcode (b : Byte) : Reads (b :: bs) (decodeOpcode b bs) := by
  have hb := modRegRm_fields b
  have hall : ∀ x : BitVec 2, x = 0#2 ∨ x = 1#2 ∨ x = 2#2 ∨ x = 3#2 := by decide
  unfold decodeOpcode
  generalize modField b = q, regField b = o, rmField b = z at hb
  subst hb
  rcases hall q with rfl | rfl | rfl | rfl
  · exact reads_Q0 bs o z
  · exact reads_Q1 bs o z
  · exact reads_Q2 bs o z
  · exact reads_Q3 bs o z

end

/-! ### The statements -/

/-- Settles O2: one line for each shape of an encoding; the first byte and the register field of the second lead the decoder
to the same instruction. -/
theorem decodeOfEncode : Obligations.DecodeOfEncode := by
  intro i h rest
  cases i with
  | movRmReg d w rm r | addRmReg d w rm r | adcRmReg d w rm r | subRmReg d w rm r | sbbRmReg d w rm r
  | cmpRmReg d w rm r | andRmReg d w rm r | orRmReg d w rm r | xorRmReg d w rm r =>
    refine decode_regRm h fun bs => ?_
    cases d <;> cases w <;> rfl
  | xchgRmReg w rm r | testRmReg w rm r =>
    refine decode_regRm h fun bs => ?_
    cases w <;> rfl
  | lea r m | lds r m | les r m => exact decode_regMem h fun bs => rfl
  | resLea x y | resLds x y | resLes x y => exact decode_regMem_reserved fun bs => rfl
  | addRmImm rm imm | adcRmImm rm imm | subRmImm rm imm | sbbRmImm rm imm | cmpRmImm rm imm | andRmImm rm imm
  | orRmImm rm imm | xorRmImm rm imm =>
    exact decode_groupRmImm h fun m bs hreg => by simp [decode_80, hreg, aluRmImm]
  | movRmImm rm imm => exact decode_groupRmImm h fun m bs hreg => by simp [decode_C6, decodeC6, hreg]
  | testRmImm rm imm => exact decode_groupRmImm h fun m bs hreg => by simp [decode_F6, decodeF6, hreg]
  | addRmImmSx rm v | adcRmImmSx rm v | subRmImmSx rm v | sbbRmImmSx rm v | cmpRmImmSx rm v =>
    exact decode_groupRmByte h fun m bs hreg => by simp [decode_83, decode83, hreg]
  | movEsRm rm | movSsRm rm | movDsRm rm =>
    exact decode_groupRm h fun m bs hreg => by simp [decode_8E, decode8E, hreg]
  | popRm16 rm => exact decode_groupRm h fun m bs hreg => by simp [decode_8F, decode8F, hreg]
  | rolRm v w rm | rorRm v w rm | rclRm v w rm | rcrRm v w rm | shlRm v w rm | shrRm v w rm | sarRm v w rm =>
    exact decode_groupRm h fun m bs hreg => by simp [decode_D0, decodeShift, hreg]
  | notRm w rm | negRm w rm | mulRm w rm | imulRm w rm | divRm w rm | idivRm w rm =>
    exact decode_groupRm h fun m bs hreg => by simp [decode_F6, decodeF6, hreg]
  | incRm8 rm | decRm8 rm => exact decode_groupRm h fun m bs hreg => by simp [decode_FE, decodeFE, hreg]
  | incRm16 rm | decRm16 rm | callNearInd rm | jmpNearInd rm =>
    exact decode_groupRm h fun m bs hreg => by simp [decode_FF, decodeFF, hreg]
  | callFarInd m | jmpFarInd m =>
    exact decode_groupMem h fun m bs hreg hmod => by simp [decode_FF, decodeFF, hreg, hmod]
  | esc hi lo rm => exact decode_groupRm h fun m bs hreg => by simp [decode_D8, hreg]
  | pushRm16 rm =>
    obtain ⟨hwf, hsp⟩ : rm.wellFormed = true ∧ rm.notSp = true := by simpa [WellFormed] using h
    obtain ⟨m, bs, hcons, hreg, htake⟩ := encRm_cons rest 6#3 hwf
    have hm : m ≠ 0xF4#8 := fun e => encRm_ne_F4 hwf hsp bs rest (e ▸ hcons)
    simp [encode, hcons, decode_FF, decodeFF, hreg, hm, htake]
  | movRmSreg sr rm =>
    refine decode_groupRm h fun m bs hreg => ?_
    obtain ⟨hbit, hseg⟩ := regField_segReg hreg
    simp [decode_8C, decode8C, hbit, hseg]
  | addAccImm imm | adcAccImm imm | subAccImm imm | sbbAccImm imm | cmpAccImm imm | andAccImm imm | orAccImm imm
  | xorAccImm imm | testAccImm imm => exact decode_accImm fun w bs => by cases w <;> rfl
  | movAccMem w x | movMemAcc w x =>
    refine decode_word fun bs => ?_
    cases w <;> rfl
  | callNear x | jmpNear x | retImm x | retfImm x => exact decode_word fun bs => rfl
  | movReg16Imm r x =>
    refine decode_word fun bs => ?_
    cases r <;> rfl
  | callFar x y | jmpFar x y => exact decode_twoWords fun bs => rfl
  | movReg8Imm r v => cases r <;> rfl
  | pushReg16 r | popReg16 r | incReg16 r | decReg16 r => cases r <;> rfl
  | inAccPort w p | outPortAcc w p => cases w <;> rfl
  | inAccDx w | outDxAcc w | movs w | cmps w | scas w | lods w | stos w => cases w <;> rfl
  | rep z => cases z <;> rfl
  | resD4 b => exact encodedAs_resD4 (by simpa [WellFormed] using h) rest
  | resD5 b => exact encodedAs_resD5 (by simpa [WellFormed] using h) rest
  | res60 lo => exact decode_res60 lo rest
  | res8C mod lo =>
    obtain ⟨hbit, hmod, hlo, -⟩ := bitFive_fields mod lo
    simp [encode, decode_8C, decode8C, hbit, hmod, hlo]
  | res8E mod lo =>
    obtain ⟨-, hmod, hlo, z, hreg⟩ := bitFive_fields mod lo
    exact (decode8E_bitFive hreg rest).trans (by rw [hmod, hlo])
  | resC0 x | resC8 x => rcases BitVec.eq_zero_or_eq_one x with rfl | rfl <;> rfl
  | resD06 v w mod rm => simp [encode, decode_D0, decodeShift]
  | res83Or mod rm | res83And mod rm | res83Xor mod rm => simp [encode, decode_83, decode83]
  | resMovCs mod rm => simp [encode, decode_8E, decode8E]
  | res8F1 mod rm | res8F2 mod rm | res8F3 mod rm | res8F4 mod rm | res8F5 mod rm | res8F6 mod rm | res8F7 mod rm =>
    simp [encode, decode_8F, decode8F]
  | resC61 w mod rm | resC62 w mod rm | resC63 w mod rm | resC64 w mod rm | resC65 w mod rm | resC66 w mod rm
  | resC67 w mod rm => simp [encode, decode_C6, decodeC6]
  | resF61 w mod rm => simp [encode, decode_F6, decodeF6]
  | resFE2 mod rm | resFE3 mod rm | resFE4 mod rm | resFE5 mod rm | resFE6 mod rm | resFE7 mod rm =>
    simp [encode, decode_FE, decodeFE]
  | resFF7 mod rm => simp [encode, decode_FF, decodeFF]
  | resCallFarReg rm | resJmpFarReg rm => simp [encode, decode_FF, decodeFF]
  | _ => rfl

/-- Settles O3: the decoder reads what the encoder writes, first byte by first byte. -/
theorem encodeOfDecode : Obligations.EncodeOfDecode := fun bs _ _ h =>
  reads_takeByte (whole := bs) (fun b ms hb => hb ▸ reads_opcode ms b) _ _ h

end Sys2Proof.Machine
end

section
/-! PROOFS about every instruction at once (O5, O6, O60): what an instruction and its end can do to the state that lives
between steps, and to CS, TF and IF. -/

namespace Sys2Proof.Machine
open Sys2Proof

/-! ### What most operations keep -/

/-- Memory stays in canonical form; the NMI latch, the idle states, the prefixes, CS, TF, IF and the parameters are as
before, and other masters with nothing to write get nothing. -/
structure State.Keeps (s t : State) : Prop where
  wf : Memory.wf s.mem = true → Memory.wf t.mem = true
  nmiLatch : t.nmiLatch = s.nmiLatch
  entered : t.entered = s.entered
  halted : t.halted = s.halted
  waiting : t.waiting = s.waiting
  running : t.running = s.running
  pfx : t.pfx = s.pfx
  cs : t.sregs.cs = s.sregs.cs
  tf : t.flags.TF = s.flags.TF
  ifl : t.flags.IF = s.flags.IF
  plat : t.plat = s.plat
  quiet : s.busQueue = [] → t.busQueue = []

section
variable {s t u : State}

theorem keeps_refl (s : State) : s.Keeps s := ⟨id, rfl, rfl, rfl, rfl, rfl, rfl, rfl, rfl, rfl, rfl, id⟩

theorem State.Keeps.trans (h : s.Keeps t) (k : t.Keeps u) : s.Keeps u :=
  ⟨fun w => k.wf (h.wf w), k.nmiLatch.trans h.nmiLatch, k.entered.trans h.entered, k.halted.trans h.halted,
    k.waiting.trans h.waiting, k.running.trans h.running, k.pfx.trans h.pfx, k.cs.trans h.cs, k.tf.trans h.tf,
    k.ifl.trans h.ifl, k.plat.trans h.plat, fun q => k.quiet (h.quiet q)⟩

/-- General registers, IP, the flags but for TF and IF, the delay bit, the queue's record, the log and the draw number are
not among what is kept. -/
theorem keeps_local (s : State) (g : Gpr) (ip : Word) (f : Flags) (delay : Bool) (stale : List (PAddr × Byte))
    (log : List BusWrite) (n : Nat) (h : f.TF = s.flags.TF ∧ f.IF = s.flags.IF := by exact ⟨rfl, rfl⟩) :
    s.Keeps { s with gpr := g, ip := ip, flags := f, delay := delay, stale := stale, busLog := log, freeIx := n } :=
  ⟨id, rfl, rfl, rfl, rfl, rfl, rfl, rfl, h.1, h.2, rfl, id⟩

theorem keeps_setSreg (s : State) {r : SegReg} (v : Word) (h : SegReg.cs ≠ r) : s.Keeps (s.setSreg r v) :=
  ⟨id, rfl, rfl, rfl, rfl, rfl, rfl, sregs_get_set_ne s.sregs r .cs v h, rfl, rfl, rfl, id⟩

theorem keeps_writeW (s : State) (w : Width) (g o : Word) (v : BitVec w.bits) : s.Keeps (s.writeW w g o v) :=
  ⟨wf_writeW s w g o v, by simp, by simp, by simp, by simp, by simp, by simp, by simp, by simp, by simp, by simp, by simp⟩

theorem keeps_push16 (s : State) (v : Word) : s.Keeps (s.push16 v) :=
  ⟨wf_push16 s v, by simp, by simp, by simp, by simp, by simp, by simp, by simp, by simp, by simp, by simp, by simp⟩

theorem keeps_yieldBus (s : State) : s.Keeps s.yieldBus :=
  ⟨wf_yieldBus s, by simp, by simp, by simp, by simp, by simp, by simp, by simp, by simp, by simp, by simp,
    fun h => (congrArg State.busQueue (yieldBus_quiet h)).trans h⟩

theorem keeps_rmWrite (s : State) (w : Width) (rm : RM) (v : BitVec w.bits) : s.Keeps (s.rmWrite w rm v) := by
  cases rm with
  | reg r => exact keeps_local s _ _ _ _ _ _ _
  | mem m => exact keeps_writeW s w _ _ v

theorem keeps_operandGap (s : State) (rm : RM) : s.Keeps (s.operandGap rm) := by
  cases rm with
  | reg r => exact keeps_refl s
  | mem m => exact keeps_yieldBus s

/-- The read, the gap and the write of an operand, with flags set between that leave TF and IF. -/
theorem keeps_modify (s : State) (w : Width) (rm : RM) (v : BitVec w.bits) (k : (s.operandGap rm).Keeps t) :
    s.Keeps (t.rmWrite w rm v) :=
  ((keeps_operandGap s rm).trans k).trans (keeps_rmWrite t w rm v)

/-! ### The shapes of instructions -/

/-- The two-operand operations write the arithmetic flags alone (R200, R271). -/
def KeepsOp (op : AluOp) : Prop := ∀ n a b (s : State), s.Keeps (op n a b s).2

theorem keepsOp_add : KeepsOp aluAdd := fun _ _ _ s => keeps_local s _ _ _ _ _ _ _
theorem keepsOp_adc : KeepsOp aluAdc := fun _ _ _ s => keeps_local s _ _ _ _ _ _ _
theorem keepsOp_sub : KeepsOp aluSub := fun _ _ _ s => keeps_local s _ _ _ _ _ _ _
theorem keepsOp_sbb : KeepsOp aluSbb := fun _ _ _ s => keeps_local s _ _ _ _ _ _ _
theorem keepsOp_and : KeepsOp aluAnd := fun _ _ _ s => keeps_local s _ _ _ _ _ _ _
theorem keepsOp_or : KeepsOp aluOr := fun _ _ _ s => keeps_local s _ _ _ _ _ _ _
theorem keepsOp_xor : KeepsOp aluXor := fun _ _ _ s => keeps_local s _ _ _ _ _ _ _

variable {op : AluOp}

theorem keeps_aluOnRmReg (h : KeepsOp op) (d : Bool) (w : Width) (rm : RM) (r : RegCode) (s : State) :
    s.Keeps (aluOnRmReg op d w rm r s) := by
  cases d with
  | true => exact (h _ _ _ s).trans (keeps_local _ _ _ _ _ _ _ _)
  | false => exact keeps_modify s w rm _ (h _ _ _ _)

theorem keeps_aluOnRmImm (h : KeepsOp op) (w : Width) (rm : RM) (v : BitVec w.bits) (s : State) :
    s.Keeps (aluOnRmImm op w rm v s) := keeps_modify s w rm _ (h _ _ _ _)

theorem keeps_aluOnAccImm (h : KeepsOp op) (w : Width) (v : BitVec w.bits) (s : State) :
    s.Keeps (aluOnAccImm op w v s) := (h _ _ _ s).trans (keeps_local _ _ _ _ _ _ _ _)

theorem keeps_flagsOnRmReg (h : KeepsOp op) (d : Bool) (w : Width) (rm : RM) (r : RegCode) (s : State) :
    s.Keeps (flagsOnRmReg op d w rm r s) := by
  cases d <;> exact h _ _ _ s

theorem keeps_incRm (w : Width) (rm : RM) (s : State) : s.Keeps (incRm w rm s) :=
  keeps_modify s w rm _ (keeps_local _ _ _ _ _ _ _ _ (operandGap_flags s rm ▸ ⟨rfl, rfl⟩))

theorem keeps_decRm (w : Width) (rm : RM) (s : State) : s.Keeps (decRm w rm s) :=
  keeps_modify s w rm _ (keeps_local _ _ _ _ _ _ _ _ (operandGap_flags s rm ▸ ⟨rfl, rfl⟩))

theorem keeps_shiftByZero (w : Width) (rm : RM) (s : State) : s.Keeps (s.shiftByZero w rm) := by
  cases rm with
  | reg r => exact keeps_refl s
  | mem m =>
    unfold State.shiftByZero
    dsimp only
    split
    · exact (keeps_yieldBus s).trans ((keeps_rmWrite _ w _ _).trans (keeps_local _ _ _ _ _ _ _ _))
    · exact keeps_local s _ _ _ _ _ _ _

theorem keeps_shiftRm (step : ShiftStep) (o : ShiftOf) (byCl : Bool) (w : Width) (rm : RM) (s : State) :
    s.Keeps (shiftRm step o byCl w rm s) := by
  unfold shiftRm
  split
  · exact keeps_shiftByZero w rm s
  · exact keeps_modify s w rm _ (keeps_local _ _ _ _ _ _ _ _)

theorem keeps_rotateRm (step : ShiftStep) (o : ShiftOf) (byCl : Bool) (w : Width) (rm : RM) (s : State) :
    s.Keeps (rotateRm step o byCl w rm s) := by
  unfold rotateRm
  split
  · exact keeps_shiftByZero w rm s
  · exact keeps_modify s w rm _ (keeps_local _ _ _ _ _ _ _ _)

theorem keeps_movsElement (w : Width) (s : State) : s.Keeps (movsElement w s) :=
  (keeps_yieldBus s).trans ((keeps_writeW _ w _ _ _).trans (keeps_local _ _ _ _ _ _ _ _))

theorem keeps_cmpsElement (w : Width) (s : State) : s.Keeps (cmpsElement w s) :=
  (((keeps_yieldBus s).trans (keeps_local _ _ _ _ _ _ _ _)).trans (keepsOp_sub _ _ _ s.yieldBus.tick)).trans
    (keeps_local _ _ _ _ _ _ _ _)

theorem keeps_scasElement (w : Width) (s : State) : s.Keeps (scasElement w s) :=
  (keepsOp_sub _ _ _ s).trans (keeps_local _ _ _ _ _ _ _ _)

theorem keeps_lodsElement (w : Width) (s : State) : s.Keeps (lodsElement w s) := keeps_local s _ _ _ _ _ _ _

theorem keeps_stosElement (w : Width) (s : State) : s.Keeps (stosElement w s) :=
  (keeps_writeW s w _ _ _).trans (keeps_local _ _ _ _ _ _ _ _)

theorem keeps_jumpRel8 (s : State) (c : Bool) (disp : Byte) : s.Keeps (s.jumpRel8 c disp) := by
  cases c with
  | true => exact keeps_local s _ _ _ _ _ _ _
  | false => exact keeps_refl s

end

/-! ### What an instruction can do -/

/-- Everything an instruction that raises no interrupt can do to the state that lives between steps, and to CS, TF and IF. -/
structure Effect (i : Instr) (s t : State) : Prop where
  wf : Memory.wf s.mem = true → Memory.wf t.mem = true
  nmiLatch : t.nmiLatch = s.nmiLatch
  entered : t.entered = s.entered
  halted : t.halted = s.halted ∨ i = .hlt
  waiting : t.waiting = s.waiting ∨ i = .wait
  running : t.running = s.running ∨ Instr.isString i = true
  pfx : t.pfx = s.pfx ∨ Instr.isPrefix i = true
  cs : t.sregs.cs = s.sregs.cs ∨ Instr.writesCs i = true
  tf : t.flags.TF = s.flags.TF ∨ Instr.loadsFlags i = true
  ifl : t.flags.IF = s.flags.IF ∨ Instr.loadsFlags i = true ∨ (i = .sti ∧ t.flags.IF = true) ∨
    (i = .cli ∧ t.flags.IF = false)
  plat : t.plat = s.plat
  quiet : s.busQueue = [] → t.busQueue = []

/-- The state in which an instruction raises its interrupt: its own, or with the values a divide error leaves (R418). -/
def State.raisingAs (s q : State) : Prop := q = s ∨ ∃ w, q = (s.freeQuotient w).endLock

/-- An instruction answered an internal interrupt (R415 step 1). -/
def Raised (i : Instr) (s t : State) : Prop :=
  Instr.canRaise i = true ∧ ∃ ty q, s.raisingAs q ∧ raise ty q = .next t

/-- A property of the next state, if there is one. -/
def Answers (P : State → Prop) (o : Result) : Prop := ∀ t, o = .next t → P t

theorem answers_next {P : State → Prop} {t : State} (h : P t) : Answers P (.next t) := by
  rintro _ ⟨rfl⟩; exact h

theorem answers_refused {P : State → Prop} {r : Refusal} : Answers P (.refused r) := by rintro _ ⟨⟩

theorem State.Keeps.effect {s t : State} (h : s.Keeps t) (i : Instr) : Effect i s t :=
  ⟨h.wf, h.nmiLatch, h.entered, .inl h.halted, .inl h.waiting, .inl h.running, .inl h.pfx, .inl h.cs, .inl h.tf,
    .inl h.ifl, h.plat, h.quiet⟩

/-- Between two steps a string instruction goes on with a repeat prefix and elements left, or is over (R292). -/
def RunsOn (i : Instr) (s t : State) : Prop :=
  t.running = none ∨ (t.running = some i ∧ s.pfx.rep.isSome = true ∧ t.gpr.cx ≠ 0)

/-- A turn of a string instruction (R292). -/
theorem effect_repeated {i : Instr} (hi : Instr.isString i = true) (compares : Bool) {element : State → State} {s : State}
    (h : s.Keeps (element s)) :
    Answers (fun t => Effect i s t ∧ RunsOn i s t) (repeated i compares element s) := by
  intro t ht
  obtain ⟨t', hnext, hcases⟩ := repeated_next i compares element s
  obtain rfl : t' = t := by rw [hnext] at ht; injection ht
  have heffect {x : State} (k : s.Keeps x) (run : Option Instr) (hrun : RunsOn i s { x with running := run }) :
      Effect i s { x with running := run } ∧ RunsOn i s { x with running := run } :=
    ⟨{ k.effect i with running := .inr hi }, hrun⟩
  rcases hcases with ⟨-, rfl⟩ | ⟨-, -, rfl⟩ | ⟨hrep, -, rfl | ⟨hcx, rfl⟩⟩
  · exact heffect h none (.inl rfl)
  · exact heffect (keeps_refl s) none (.inl rfl)
  · exact heffect (h.trans (keeps_local _ _ _ _ _ _ _ _)) none (.inl rfl)
  · exact heffect (x := (element s).setReg .r001 (s.gpr.cx - 1)) (h.trans (keeps_local _ _ _ _ _ _ _ _)) (some i)
      (.inr ⟨rfl, Option.isSome_iff_ne_none.mpr hrep, hcx⟩)

theorem exec_isString {i : Instr} (hi : Instr.isString i = true) (s : State) :
    Answers (fun t => Effect i s t ∧ RunsOn i s t) (exec i s) := by
  cases i with
  | movs w => exact effect_repeated rfl _ (keeps_movsElement w s)
  | cmps w => exact effect_repeated rfl _ (keeps_cmpsElement w s)
  | scas w => exact effect_repeated rfl _ (keeps_scasElement w s)
  | lods w => exact effect_repeated rfl _ (keeps_lodsElement w s)
  | stos w => exact effect_repeated rfl _ (keeps_stosElement w s)
  | _ => exact absurd hi Bool.false_ne_true

/-- What every instruction answers. -/
def Outcome (i : Instr) (s t : State) : Prop := Effect i s t ∨ Raised i s t

theorem outcome_of_keeps {i : Instr} {s t : State} (h : s.Keeps t) : Answers (Outcome i s) (.next t) :=
  answers_next (.inl (h.effect i))

theorem answers_ite {P : State → Prop} {c : Prop} [Decidable c] {x y : Result} (hx : Answers P x) (hy : Answers P y) :
    Answers P (if c then x else y) := by
  split
  · exact hx
  · exact hy

theorem keeps_ite {s t u : State} {c : Prop} [Decidable c] (ht : s.Keeps t) (hu : s.Keeps u) :
    s.Keeps (if c then t else u) := by
  split
  · exact ht
  · exact hu

theorem outcome_of_effect {i : Instr} {s t : State} (h : Effect i s t) : Answers (Outcome i s) (.next t) :=
  answers_next (.inl h)

theorem outcome_of_raise {i : Instr} {s q : State} {ty : Byte} (hi : Instr.canRaise i = true) (hq : s.raisingAs q) :
    Answers (Outcome i s) (raise ty q) := fun _ ht => .inr ⟨hi, ty, q, hq, ht⟩

theorem outcome_of_isString {i : Instr} (hi : Instr.isString i = true) (s : State) :
    Answers (Outcome i s) (exec i s) := fun t ht => .inl (exec_isString hi s t ht).1

/-- A transfer to another segment changes CS, and IP, the queue and SP with memory at most (R25). -/
theorem effect_jumpFar {i : Instr} {s t : State} (hi : Instr.writesCs i = true) (h : s.Keeps t) (cs ip : Word) :
    Effect i s (t.jumpFar cs ip) :=
  { h.effect i with cs := .inr hi }

theorem keeps_pushReturn (s : State) : s.Keeps s.pushReturn :=
  ((keeps_push16 s _).trans (keeps_yieldBus _)).trans (keeps_push16 _ _)

theorem keeps_popped (s : State) : s.Keeps s.popped := keeps_local s _ _ _ _ _ _ _

theorem effect_popFar {i : Instr} (hi : Instr.writesCs i = true) (s : State) : Effect i s s.popFar :=
  effect_jumpFar hi (((keeps_yieldBus s).trans (keeps_popped _)).trans (keeps_popped _)) _ _

theorem exec_outcome (i : Instr) (s : State) : Answers (Outcome i s) (exec i s) := by
  cases i with
  | movRmReg d w rm r =>
    cases d with
    | true => exact outcome_of_keeps (keeps_local s _ _ _ _ _ _ _)
    | false => exact outcome_of_keeps (keeps_rmWrite s w rm _)
  | movRmImm rm imm => exact outcome_of_keeps (keeps_rmWrite s _ rm _)
  | movRmSreg sr rm => exact outcome_of_keeps (keeps_rmWrite s _ rm _)
  | movMemAcc w a => exact outcome_of_keeps (keeps_writeW s w _ _ _)
  | movEsRm rm | movSsRm rm | movDsRm rm =>
    exact outcome_of_keeps ((keeps_setSreg s _ (by decide)).trans (keeps_local _ _ _ _ _ _ _ _))
  | popEs | popSs | popDs =>
    exact outcome_of_keeps
      (((keeps_popped s).trans (keeps_setSreg _ _ (by decide))).trans (keeps_local _ _ _ _ _ _ _ _))
  | pushReg16 r | pushEs | pushCs | pushSs | pushDs | pushf => exact outcome_of_keeps (keeps_push16 s _)
  | pushRm16 rm => exact outcome_of_keeps ((keeps_operandGap s rm).trans (keeps_push16 _ _))
  | popRm16 rm => exact outcome_of_keeps (keeps_modify s .word rm _ (keeps_popped _))
  | xchgRmReg w rm r => exact outcome_of_keeps ((keeps_modify s w rm _ (keeps_refl _)).trans (keeps_local _ _ _ _ _ _ _ _))
  | outPortAcc w p | outDxAcc w => cases w <;> exact outcome_of_keeps (keeps_local s _ _ _ _ _ _ _)
  | lds r m | les r m =>
    exact outcome_of_keeps (((keeps_yieldBus s).trans (keeps_local _ _ _ _ _ _ _ _)).trans (keeps_setSreg _ _ (by decide)))
  | addRmReg d w rm r => exact outcome_of_keeps (keeps_aluOnRmReg keepsOp_add d w rm r s)
  | adcRmReg d w rm r => exact outcome_of_keeps (keeps_aluOnRmReg keepsOp_adc d w rm r s)
  | subRmReg d w rm r => exact outcome_of_keeps (keeps_aluOnRmReg keepsOp_sub d w rm r s)
  | sbbRmReg d w rm r => exact outcome_of_keeps (keeps_aluOnRmReg keepsOp_sbb d w rm r s)
  | andRmReg d w rm r => exact outcome_of_keeps (keeps_aluOnRmReg keepsOp_and d w rm r s)
  | orRmReg d w rm r => exact outcome_of_keeps (keeps_aluOnRmReg keepsOp_or d w rm r s)
  | xorRmReg d w rm r => exact outcome_of_keeps (keeps_aluOnRmReg keepsOp_xor d w rm r s)
  | addRmImm rm imm | addRmImmSx rm imm => exact outcome_of_keeps (keeps_aluOnRmImm keepsOp_add _ rm _ s)
  | adcRmImm rm imm | adcRmImmSx rm imm => exact outcome_of_keeps (keeps_aluOnRmImm keepsOp_adc _ rm _ s)
  | subRmImm rm imm | subRmImmSx rm imm => exact outcome_of_keeps (keeps_aluOnRmImm keepsOp_sub _ rm _ s)
  | sbbRmImm rm imm | sbbRmImmSx rm imm => exact outcome_of_keeps (keeps_aluOnRmImm keepsOp_sbb _ rm _ s)
  | andRmImm rm imm => exact outcome_of_keeps (keeps_aluOnRmImm keepsOp_and _ rm _ s)
  | orRmImm rm imm => exact outcome_of_keeps (keeps_aluOnRmImm keepsOp_or _ rm _ s)
  | xorRmImm rm imm => exact outcome_of_keeps (keeps_aluOnRmImm keepsOp_xor _ rm _ s)
  | addAccImm imm => exact outcome_of_keeps (keeps_aluOnAccImm keepsOp_add _ _ s)
  | adcAccImm imm => exact outcome_of_keeps (keeps_aluOnAccImm keepsOp_adc _ _ s)
  | subAccImm imm => exact outcome_of_keeps (keeps_aluOnAccImm keepsOp_sub _ _ s)
  | sbbAccImm imm => exact outcome_of_keeps (keeps_aluOnAccImm keepsOp_sbb _ _ s)
  | andAccImm imm => exact outcome_of_keeps (keeps_aluOnAccImm keepsOp_and _ _ s)
  | orAccImm imm => exact outcome_of_keeps (keeps_aluOnAccImm keepsOp_or _ _ s)
  | xorAccImm imm => exact outcome_of_keeps (keeps_aluOnAccImm keepsOp_xor _ _ s)
  | cmpRmReg d w rm r => exact outcome_of_keeps (keeps_flagsOnRmReg keepsOp_sub d w rm r s)
  | testRmReg w rm r => exact outcome_of_keeps (keeps_flagsOnRmReg keepsOp_and false w rm r s)
  | cmpRmImm rm imm | cmpRmImmSx rm imm | cmpAccImm imm => exact outcome_of_keeps (keepsOp_sub _ _ _ s)
  | testRmImm rm imm | testAccImm imm => exact outcome_of_keeps (keepsOp_and _ _ _ s)
  | incRm8 rm | incRm16 rm => exact outcome_of_keeps (keeps_incRm _ rm s)
  | incReg16 r => exact outcome_of_keeps (keeps_incRm _ (.reg r) s)
  | decRm8 rm | decRm16 rm => exact outcome_of_keeps (keeps_decRm _ rm s)
  | decReg16 r => exact outcome_of_keeps (keeps_decRm _ (.reg r) s)
  | negRm w rm =>
    exact outcome_of_keeps
      (keeps_modify s w rm _ (keeps_local _ _ _ _ _ _ _ _ (operandGap_flags s rm ▸ ⟨rfl, rfl⟩)))
  | notRm w rm => exact outcome_of_keeps (keeps_modify s w rm _ (keeps_refl _))
  | aaa | aas | daa | das =>
    exact outcome_of_keeps (keeps_ite (keeps_local s _ _ _ _ _ _ _) (keeps_local s _ _ _ _ _ _ _))
  | mulRm w rm | imulRm w rm => cases w <;> exact outcome_of_keeps (keeps_local s _ _ _ _ _ _ _)
  | divRm w rm | idivRm w rm =>
    refine answers_ite (outcome_of_raise rfl (.inr ⟨w, rfl⟩)) ?_
    cases w <;> exact outcome_of_keeps (keeps_local s _ _ _ _ _ _ _)
  | rolRm v w rm | rorRm v w rm | rclRm v w rm | rcrRm v w rm =>
    exact outcome_of_keeps (keeps_rotateRm _ _ v w rm s)
  | shlRm v w rm | shrRm v w rm | sarRm v w rm => exact outcome_of_keeps (keeps_shiftRm _ _ v w rm s)
  | movs w | cmps w | scas w | lods w | stos w => exact outcome_of_isString rfl s
  | callNear disp => exact outcome_of_keeps ((keeps_push16 s _).trans (keeps_local _ _ _ _ _ _ _ _))
  | callNearInd rm =>
    exact outcome_of_keeps (((keeps_operandGap s rm).trans (keeps_push16 _ _)).trans (keeps_local _ _ _ _ _ _ _ _))
  | callFar off seg => exact outcome_of_effect (effect_jumpFar rfl (keeps_pushReturn s) _ _)
  | callFarInd m =>
    exact outcome_of_effect
      (effect_jumpFar rfl (((keeps_yieldBus s).trans (keeps_yieldBus _)).trans (keeps_pushReturn _)) _ _)
  | jmpFar off seg => exact outcome_of_effect (effect_jumpFar rfl (keeps_refl s) _ _)
  | jmpFarInd m => exact outcome_of_effect (effect_jumpFar rfl (keeps_yieldBus s) _ _)
  | retf => exact outcome_of_effect (effect_popFar rfl s)
  | retfImm n => exact outcome_of_effect { effect_popFar (i := .retfImm n) rfl s with }
  | jo d | jno d | jb d | jnb d | je d | jne d | jbe d | jnbe d | js d | jns d | jp d | jnp d | jl d | jnl d | jle d
  | jnle d | jcxz d => exact outcome_of_keeps (keeps_jumpRel8 s _ d)
  | jmpShort d => exact outcome_of_keeps (keeps_jumpRel8 s true d)
  | loop d | loopz d | loopnz d =>
    exact outcome_of_keeps ((keeps_local s _ _ _ _ _ _ _).trans (keeps_jumpRel8 s.countCx _ d))
  | intN t => exact outcome_of_raise rfl (.inl rfl)
  | int3 => exact outcome_of_raise rfl (.inl rfl)
  | into => exact answers_ite (outcome_of_raise rfl (.inl rfl)) (outcome_of_keeps (keeps_refl s))
  | iret =>
    have hgaps := (keeps_yieldBus s).trans (keeps_yieldBus _)
    exact outcome_of_effect
      { hgaps.effect .iret with cs := .inr rfl, tf := .inr rfl, ifl := .inr (.inl rfl) }
  | popf => exact outcome_of_effect { (keeps_refl s).effect .popf with tf := .inr rfl, ifl := .inr (.inl rfl) }
  | sti =>
    have hset : Effect .sti s (s.setFlags { s.flags with IF := true }) :=
      { (keeps_refl s).effect .sti with ifl := .inr (.inr (.inl ⟨rfl, rfl⟩)) }
    refine outcome_of_effect ?_
    split
    · exact hset
    · exact { hset with }
  | cli => exact outcome_of_effect { (keeps_refl s).effect .cli with ifl := .inr (.inr (.inr ⟨rfl, rfl⟩)) }
  | hlt => exact outcome_of_effect { (keeps_refl s).effect .hlt with halted := .inr rfl }
  | wait =>
    refine outcome_of_effect ?_
    split
    · exact { (keeps_refl s).effect .wait with waiting := .inr rfl }
    · exact { (keeps_refl s).effect .wait with waiting := .inr rfl }
  | esc hi lo rm => cases rm <;> exact outcome_of_keeps (keeps_refl s)
  | lock | overrideEs | overrideCs | overrideSs | overrideDs | rep z =>
    exact outcome_of_effect { (keeps_refl s).effect _ with pfx := .inr rfl }
  | movReg8Imm r v | movReg16Imm r v | movAccMem w a | popReg16 r | xchgAxCx | xchgAxDx | xchgAxBx | xchgAxSp
  | xchgAxBp | xchgAxSi | xchgAxDi | inAccPort w p | inAccDx w | xlat | lea r m | lahf | sahf | aam | aad | cbw | cwd
  | jmpNear disp | jmpNearInd rm | ret | retImm n | clc | cmc | stc | cld | std | nop =>
    exact outcome_of_keeps (keeps_local s _ _ _ _ _ _ _)
  | _ => exact answers_refused

/-! ### What an interrupt sequence leaves (R430) -/

/-- Everything a sequence leaves of the state between steps: it is over with idle states and prefixes, TF and IF are clear,
and an NMI met on the way has been served. -/
structure AfterSequence (s u : State) : Prop where
  wf : Memory.wf s.mem = true → Memory.wf u.mem = true
  nmiLatch : u.nmiLatch = false
  entered : u.entered = s.entered
  delay : u.delay = s.delay
  halted : u.halted = false
  waiting : u.waiting = false
  running : u.running = none
  pfx : u.pfx = Prefixes.none
  stale : u.stale = []
  tf : u.flags.TF = false
  ifl : u.flags.IF = false

/-- One entry, in a state whose NMI latch is clear. -/
theorem afterSequence_entered7 {s : State} (t : Byte) (ret : Word) (hn : s.nmiLatch = false) :
    AfterSequence s (s.entered7 t ret) :=
  { wf := entered7_wf s t ret, nmiLatch := by simp [State.entered7, hn], entered := by simp [State.entered7],
    delay := by simp [State.entered7], halted := rfl, waiting := rfl, running := rfl, pfx := rfl,
    stale := rfl, tf := by rw [entered7_flags]; rfl, ifl := by rw [entered7_flags]; rfl }

/-- A second entry on top of the first keeps what the first has left. -/
theorem AfterSequence.trans {s t u : State} (h : AfterSequence s t) (k : AfterSequence t u) : AfterSequence s u :=
  { k with wf := fun w => k.wf (h.wf w), entered := k.entered.trans h.entered, delay := k.delay.trans h.delay }

/-- What a first entry leaves, whether an NMI is latched or not. -/
theorem entered7_keeps (s : State) (t : Byte) (ret : Word) :
    (s.entered7 t ret).entered = s.entered ∧ (s.entered7 t ret).delay = s.delay := by
  simp [State.entered7]

/-- The entry of a latched NMI on top of a first entry (R430 step 8). -/
theorem afterSequence_nmi {s e : State} (ret : Word) (wf : Memory.wf s.mem = true → Memory.wf e.mem = true)
    (hentered : e.entered = s.entered) (hdelay : e.delay = s.delay) : AfterSequence s (e.clearNmi.entered7 2 ret) := by
  have hnmi : AfterSequence e.clearNmi (e.clearNmi.entered7 2 ret) := afterSequence_entered7 2 ret rfl
  exact { hnmi with
    wf := fun w => hnmi.wf (wf w), entered := hnmi.entered.trans hentered, delay := hnmi.delay.trans hdelay }

theorem sequence_after {t : Byte} {ret : Word} {temp : Bool} {s u : State} (h : sequence t ret temp s = .next u) :
    AfterSequence s u := by
  obtain ⟨-, x, hx, hu⟩ := sequence_next h
  have hfirst : AfterSequence s x := by
    rcases hx with ⟨hn, rfl⟩ | ⟨-, henter⟩
    · exact afterSequence_entered7 t ret hn
    · obtain ⟨-, rfl⟩ := enter_next.1 henter
      obtain ⟨hentered, hdelay⟩ := entered7_keeps s t ret
      exact afterSequence_nmi _ (entered7_wf s t ret) hentered hdelay
  rcases hu with ⟨-, rfl⟩ | ⟨-, henter⟩
  · exact hfirst
  · obtain ⟨-, rfl⟩ := enter_next.1 henter
    exact hfirst.trans (afterSequence_entered7 1 x.ip hfirst.nmiLatch)

/-- All the recognition of interrupts answers: a sequence, or nothing. -/
theorem recognise_next {tf idle : Bool} {ret : Word} {s u : State} (h : recognise tf idle ret s = .next u) :
    u = s ∨ ∃ t temp q, (q = s.leaveIdle ∨ q = s.leaveIdle.clearNmi) ∧ sequence t ret temp q = .next u := by
  unfold recognise at h
  split at h
  · exact .inr ⟨_, _, _, .inr rfl, h⟩
  · split at h
    · exact .inr ⟨_, _, _, .inl rfl, h⟩
    · split at h
      · exact .inr ⟨_, _, _, .inl rfl, h⟩
      · exact .inl (by injection h with h; exact h.symm)

/-! ### The invariant between steps -/

theorem inv_iff (s : State) : s.Inv = true ↔ Memory.wf s.mem = true ∧ s.delay = false ∧ s.entered = false ∧
    s.runningOk = true ∧ s.idleOk = true ∧ s.prefixOk = true := by
  simp only [State.Inv, Bool.and_eq_true, Bool.not_eq_true', and_assoc]

/-- Where nothing idles and no string instruction is in progress, the last three clauses say nothing. -/
theorem inv_of_not_idle {s : State} (wf : Memory.wf s.mem = true) (hdelay : s.delay = false) (hentered : s.entered = false)
    (hhalt : s.halted = false) (hwait : s.waiting = false) (hrun : s.running = none) : s.Inv = true :=
  (inv_iff s).mpr ⟨wf, hdelay, hentered, by simp [State.runningOk, hrun], by simp [State.idleOk, hhalt, hwait],
    by simp [State.prefixOk, hhalt]⟩

theorem inv_of_sequence {t : Byte} {ret : Word} {temp : Bool} {s u : State} (h : sequence t ret temp s = .next u)
    (wf : Memory.wf s.mem = true) (hdelay : s.delay = false) (hentered : s.entered = false) : u.Inv = true := by
  have k := sequence_after h
  exact inv_of_not_idle (k.wf wf) (k.delay.trans hdelay) (k.entered.trans hentered) k.halted k.waiting k.running

theorem inv_of_recognise {tf idle : Bool} {ret : Word} {s u : State} (h : recognise tf idle ret s = .next u)
    (hs : s.Inv = true) : u.Inv = true := by
  obtain ⟨wf, hdelay, hentered, -⟩ := (inv_iff s).mp hs
  rcases recognise_next h with rfl | ⟨t, temp, q, rfl | rfl, hseq⟩
  · exact hs
  · exact inv_of_sequence hseq wf hdelay hentered
  · exact inv_of_sequence hseq wf hdelay hentered

/-! ### What the CPU performs in its turn -/

/-- What the CPU may perform between steps: an instruction just fetched, a WAIT that waits, or a string instruction that goes
on. -/
structure Performable (i : Instr) (s : State) : Prop where
  wf : Memory.wf s.mem = true
  delay : s.delay = false
  entered : s.entered = false
  halted : s.halted = false
  waiting : s.waiting = true → i = .wait
  running : s.running ≠ none → Instr.isString i = true

section
variable {i : Instr} {s t u v : State}

/-- No two of the idle states and a string instruction in progress come from one instruction. -/
theorem Performable.idle (h : Performable i s) (k : Effect i s v) :
    (v.halted = true → i = .hlt) ∧ (v.waiting = true → i = .wait) ∧ (v.running ≠ none → Instr.isString i = true) := by
  refine ⟨fun hv => ?_, fun hv => ?_, fun hv => ?_⟩
  · exact k.halted.resolve_left fun he => by rw [hv, h.halted] at he; cases he
  · exact k.waiting.elim (fun he => h.waiting (he ▸ hv)) id
  · exact k.running.elim (fun he => h.running (he ▸ hv)) id

/-- The prefix state is all that settles at the end of an instruction (R47). -/
theorem settlePrefixes_eq (s : State) (i : Instr) :
    s.settlePrefixes i = { s with pfx := if Instr.isPrefix i || s.unfinished then s.pfx else Prefixes.none } := by
  unfold State.settlePrefixes
  split <;> rfl

theorem settled_of_halted (hi : Instr.isPrefix i = false) (hwait : s.waiting = false) (hrun : s.running = none) :
    (s.settlePrefixes i).pfx = Prefixes.none := by
  simp [settlePrefixes_eq, State.unfinished, hi, hwait, hrun]

/-- A string instruction goes on with a repeat prefix and elements left; nothing else goes on as one. -/
theorem Performable.running_of_exec (h : Performable i s) (hexec : exec i s = .next v) (k : Effect i s v) {j : Instr}
    (hj : v.running = some j) : Instr.isString j = true ∧ v.pfx.rep.isSome = true ∧ v.gpr.cx ≠ 0 := by
  have hs : Instr.isString i = true := (h.idle k).2.2 (by simp [hj])
  have hpfx : v.pfx = s.pfx := k.pfx.resolve_right fun hp => by cases i <;> cases hs <;> cases hp
  rcases (exec_isString hs s v hexec).2 with hnone | ⟨hsome, hrep, hcx⟩
  · rw [hj] at hnone; cases hnone
  · obtain rfl : j = i := by rw [hj] at hsome; injection hsome
    exact ⟨hs, hpfx ▸ hrep, hcx⟩

/-- At the end of an instruction, its prefixes settled and the delay bit cleared, the invariant holds. -/
theorem Performable.inv_settled (h : Performable i s) (hexec : exec i s = .next v) (k : Effect i s v) :
    { v.settlePrefixes i with delay := false }.Inv = true := by
  obtain ⟨hhlt, hwait, hstring⟩ := h.idle k
  have hstate := settlePrefixes_eq v i
  refine (inv_iff _).mpr ⟨?wf, rfl, ?entered, ?running, ?idle, ?pfx⟩
  case wf => rw [hstate]; exact k.wf h.wf
  case entered => rw [hstate]; exact k.entered.trans h.entered
  case running =>
    cases hrun : v.running with
    | none => simp [State.runningOk, hstate, hrun]
    | some j =>
      obtain ⟨hs, hrep, hcx⟩ := h.running_of_exec hexec k hrun
      have hcx0 : v.gpr.cx ≠ 0#16 := hcx
      simp [State.runningOk, hstate, hrun, hs, hcx0, State.unfinished, hrep]
  case idle =>
    have hhw : ¬ (v.halted = true ∧ v.waiting = true) := fun hv => by cases (hhlt hv.1).symm.trans (hwait hv.2)
    have hhr : ¬ (v.halted = true ∧ v.running.isSome = true) := fun hv => by
      cases (hhlt hv.1) ▸ hstring (Option.isSome_iff_ne_none.mp hv.2)
    have hwr : ¬ (v.waiting = true ∧ v.running.isSome = true) := fun hv => by
      cases (hwait hv.1) ▸ hstring (Option.isSome_iff_ne_none.mp hv.2)
    rw [hstate]
    simp only [State.idleOk, Bool.and_eq_true, Bool.not_eq_true', ← Bool.not_eq_true]
    exact ⟨⟨hhw, hhr⟩, hwr⟩
  case pfx =>
    cases hv : v.halted with
    | false => simp [State.prefixOk, hstate, hv]
    | true =>
      obtain rfl := hhlt hv
      have hnowait : v.waiting = false := Bool.eq_false_iff.mpr fun hw => by cases hwait hw
      have hnorun : v.running = none := by_contra fun hr => by cases hstring hr
      simp [State.prefixOk, settled_of_halted (i := .hlt) rfl hnowait hnorun]

/-- An interrupt raised by an instruction is over at its end (R415 step 1). -/
theorem Performable.inv_raised (h : Performable i s) (k : Raised i s v) : v.entered = true ∧
    { v with entered := false }.Inv = true := by
  obtain ⟨-, ty, q, hq, hraise⟩ := k
  obtain ⟨u, hsequence, hu⟩ := andThen_next.1 hraise
  obtain rfl : { u with entered := true } = v := by injection hu
  have hafter := sequence_after hsequence
  have hfacts : Memory.wf q.mem = true ∧ q.delay = false := by
    rcases hq with rfl | ⟨w, rfl⟩
    · exact ⟨h.wf, h.delay⟩
    · simpa using And.intro h.wf h.delay
  exact ⟨rfl, inv_of_not_idle (hafter.wf hfacts.1) (hafter.delay.trans hfacts.2) rfl hafter.halted hafter.waiting
    hafter.running⟩

theorem Performable.inv_perform (h : Performable i s) (hnext : perform i s = .next t) : t.Inv = true := by
  unfold perform at hnext
  split at hnext
  · cases hnext
  obtain ⟨v, hexec, hend⟩ := andThen_next.1 hnext
  rcases exec_outcome i s v hexec with k | k
  · have hinv := h.inv_settled hexec k
    have hentered : v.entered = false := k.entered.trans h.entered
    cases hdelay : v.delay with
    | true =>
      rw [boundary_of_delay _ _ hentered hdelay] at hend
      obtain rfl : _ = t := by injection hend
      exact hinv
    | false =>
      have hsame : { v.settlePrefixes i with delay := false } = v.settlePrefixes i := by
        rw [settlePrefixes_eq, ← hdelay]
      rw [hsame] at hinv
      rw [boundary, if_neg (by simp [hentered]), if_neg (by simp [hdelay])] at hend
      exact inv_of_recognise hend hinv
  · obtain ⟨hentered, hinv⟩ := h.inv_raised k
    rw [boundary, if_pos hentered] at hend
    obtain rfl : _ = t := by injection hend
    exact hinv

end

/-! ### A step -/

/-- Between two steps: what is in progress, taken apart. -/
theorem runningOk_iff (s : State) : s.runningOk = true ↔
    ∀ i, s.running = some i → Instr.isString i = true ∧ s.pfx.rep.isSome = true ∧ s.gpr.cx ≠ 0 := by
  unfold State.runningOk
  cases s.running with
  | none => simp
  | some i => simp [and_assoc]

theorem idleOk_iff (s : State) : s.idleOk = true ↔ ¬ (s.halted = true ∧ s.waiting = true) ∧
    ¬ (s.halted = true ∧ s.running.isSome = true) ∧ ¬ (s.waiting = true ∧ s.running.isSome = true) := by
  simp only [State.idleOk, Bool.and_eq_true, Bool.not_eq_true', ← Bool.not_eq_true, and_assoc]

theorem inv_served {s : State} (h : s.Inv = true) : s.served.Inv = true := by
  obtain ⟨wf, rest⟩ := (inv_iff s).mp h
  exact (inv_iff s.served).mpr ⟨wf_served s wf, by simpa [State.runningOk, State.idleOk, State.prefixOk] using rest⟩

theorem inv_dormant {s : State} (wf : Memory.wf s.mem = true) : s.dormant.Inv = true :=
  inv_of_not_idle wf rfl rfl rfl rfl rfl

theorem inv_afterReset {s : State} (wf : Memory.wf s.mem = true) : s.afterReset.Inv = true :=
  inv_of_not_idle wf rfl rfl rfl rfl rfl

theorem wf_fetched (s : State) (n : Nat) (w : Memory.wf s.mem = true) : Memory.wf (s.fetched n).mem = true :=
  wf_yieldBus _ (by simpa using w)

theorem inv_turn {s t : State} (h : s.Inv = true) (hturn : turn s = .next t) : t.Inv = true := by
  obtain ⟨wf, hdelay, hentered, hrunning, hidle, -⟩ := (inv_iff s).mp h
  obtain ⟨-, -, hwr⟩ := (idleOk_iff s).mp hidle
  unfold turn at hturn
  cases hhalt : s.halted with
  | true => exact inv_of_recognise (by simpa [hhalt] using hturn) h
  | false =>
    cases hwait : s.waiting with
    | true =>
      have hnone : s.running = none := by_contra fun hr => hwr ⟨hwait, Option.isSome_iff_ne_none.mpr hr⟩
      have hperform : Performable .wait { s with ip := s.afterWait } :=
        ⟨wf, hdelay, hentered, hhalt, fun _ => rfl, fun hr => absurd hnone hr⟩
      exact hperform.inv_perform (by simpa [hhalt, hwait] using hturn)
    | false =>
      cases hrun : s.running with
      | some i =>
        obtain ⟨hs, -⟩ := (runningOk_iff s).mp hrunning i hrun
        have hperform : Performable i s :=
          ⟨wf, hdelay, hentered, hhalt, fun hw => (Bool.eq_false_iff.mp hwait hw).elim, fun _ => hs⟩
        exact hperform.inv_perform (by simpa [hhalt, hwait, hrun] using hturn)
      | none =>
        have hperform : ∀ i n, Performable i (s.fetched n) := fun i n =>
          ⟨wf_fetched s n wf, by simpa using hdelay, by simpa using hentered, by simpa using hhalt,
            by simp [hwait], by simp [hrun]⟩
        have hfetch : fetchAndPerform s = .next t := by simpa [hhalt, hwait, hrun] using hturn
        cases hdecode : decode s.fetchBytes with
        | error e => simp [fetchAndPerform, hdecode] at hfetch
        | ok p =>
          rw [fetchAndPerform_of_decode hdecode] at hfetch
          exact (hperform _ _).inv_perform hfetch

/-! ### The statements -/

/-- Settles O5: the environment keeps the invariant, RESET restores it, and what the CPU performs in its turn ends in it. -/
theorem stepKeepsInv : Obligations.StepKeepsInv := by
  intro s t h hstep
  have hserved := inv_served h
  have wf := ((inv_iff _).mp hserved).1
  rcases step_cases s with ⟨-, hnext⟩ | ⟨-, -, hnext⟩ | ⟨-, -, -, hnext⟩ | ⟨-, -, -, hnext⟩
  · obtain rfl : s.served.dormant = t := Host.Outcome.next.inj (hnext.symm.trans hstep)
    exact inv_dormant wf
  · obtain rfl : s.served.afterReset = t := Host.Outcome.next.inj (hnext.symm.trans hstep)
    exact inv_afterReset wf
  · obtain rfl : s.served = t := Host.Outcome.next.inj (hnext.symm.trans hstep)
    exact hserved
  · exact inv_turn hserved (hnext ▸ hstep)

/-- Settles O6: nothing idles after reset, and memory is empty. -/
theorem resetHasInv : Obligations.ResetHasInv := inv_of_not_idle wf_reset rfl rfl rfl rfl rfl

/-- Settles O60: an instruction that raises no interrupt changes CS, TF and IF only as its family may, and an interrupt
clears TF and IF. -/
theorem systemStateWriters : Obligations.SystemStateWriters := by
  intro i s t hexec
  rcases exec_outcome i s t hexec with k | ⟨hraise, ty, q, -, hnext⟩
  · refine ⟨fun hcs _ => k.cs.resolve_right (Bool.eq_false_iff.mp hcs), fun hloads => ⟨.inl ?tf, ?ifl⟩⟩
    case tf => exact k.tf.resolve_right (Bool.eq_false_iff.mp hloads)
    case ifl =>
      rcases k.ifl with h | h | h | h
      · exact .inl h
      · exact (Bool.eq_false_iff.mp hloads h).elim
      · exact .inr (.inr (.inl h))
      · exact .inr (.inr (.inr h))
  · obtain ⟨u, hsequence, hu⟩ := andThen_next.1 hnext
    obtain rfl : { u with entered := true } = t := by injection hu
    have hafter := sequence_after hsequence
    exact ⟨fun _ h => (Bool.eq_false_iff.mp h hraise).elim,
      fun _ => ⟨.inr ⟨hraise, hafter.tf⟩, .inr (.inl ⟨hraise, hafter.ifl⟩)⟩⟩

end Sys2Proof.Machine
end

section
/-! PROOFS of 40_data_transfer.md (O14 to O20): MOV, PUSH, POP, XCHG, IN, OUT, XLAT, LEA, LDS, LES. -/

namespace Sys2Proof.Machine
open Sys2Proof

/-! ### Writing a destination -/

/-- All a plain write of an r/m operand does: the operand takes the value, no flag and nothing else changes. -/
theorem rmWrite_effect (s : State) (w : Width) (rm : RM) (v : BitVec w.bits) :
    s.wroteRm (s.rmWrite w rm v) w rm v ∧ (s.rmWrite w rm v).flags = s.flags ∧ s.straight (s.rmWrite w rm v) :=
  ⟨wroteRm_rmWrite s w rm v, straight_rmWrite s w rm v⟩

/-- All a write of a register does. -/
theorem setRegW_effect (s : State) (w : Width) (r : RegCode) (v : BitVec w.bits) :
    s.gpr.onlyReg (s.setRegW w r v).gpr w r v ∧ s.noStore (s.setRegW w r v) ∧ (s.setRegW w r v).flags = s.flags ∧
      s.straight (s.setRegW w r v) :=
  ⟨gpr_setW_onlyReg s.gpr w r v, noStore_setRegW s w r v, rfl, straight_setRegW s w r v⟩

theorem exec_movRmReg (d : Bool) (w : Width) (rm : RM) (r : RegCode) (s : State) :
    exec (.movRmReg d w rm r) s = .next (s.rmWrite w (destOf d rm r) (s.rmRead w (sourceOf d rm r))) := by
  cases d <;> rfl

/-- Settles O14: every form is one write of its destination. -/
theorem movForms : Obligations.MovForms := by
  refine fun s => ⟨fun d w rm r => ?rmReg, fun rm imm => ?rmImm, fun r v => ?reg8, fun r v => ?reg16, fun w a => ?accMem,
    fun w a => ?memAcc⟩
  case rmReg => exact ⟨_, exec_movRmReg d w rm r s, rmWrite_effect s w _ _⟩
  case rmImm => exact ⟨_, rfl, rmWrite_effect s imm.width rm _⟩
  case reg8 => exact ⟨_, rfl, setRegW_effect s .byte r v⟩
  case reg16 => exact ⟨_, rfl, setRegW_effect s .word r v⟩
  case accMem => exact ⟨_, rfl, setRegW_effect s w .r000 _⟩
  case memAcc => exact ⟨_, rfl, rmWrite_effect s w (.mem (.direct a)) _⟩

/-- All a load of a segment register with its interrupt delay does (R155, R164). -/
theorem setSreg_setDelay_effect (s : State) (r : SegReg) (v : Word) :
    let t := (s.setSreg r v).setDelay
    s.sregs.only t.sregs r v ∧ t.gpr = s.gpr ∧ t.ip = s.ip ∧ t.flags = s.flags ∧ s.noStore t ∧
      { s with delay := true }.restSame t :=
  ⟨sregs_set_only s.sregs r v, rfl, rfl, rfl, noStore_refl s, restSame_refl { s with delay := true }⟩

/-- Settles O15: a load writes the segment register and the delay bit, a store is a plain write of the operand. -/
theorem movSegment : Obligations.MovSegment := by
  refine fun s rm => ⟨?load, fun sr => ⟨_, rfl, rmWrite_effect s .word rm _⟩⟩
  simp only [List.forall_mem_cons]
  refine ⟨?es, ?ss, ?ds, fun _ h => absurd h List.not_mem_nil⟩
  all_goals exact ⟨_, rfl, setSreg_setDelay_effect s _ _⟩

/-! ### PUSH and POP -/

/-- PUSH reads its register after SP has moved, so only SP itself is seen as changed (R160). -/
theorem get_setSp (s : State) (v : Word) (r : RegCode) :
    (s.setSp v).gpr.get r = if r = .r100 then v else s.gpr.get r := by
  split
  · next h => exact h ▸ gpr_get_set s.gpr .r100 v
  · next h => exact gpr_get_set_ne s.gpr .r100 r v h

/-- Settles O16: each form is one `push16`, of a value read before. -/
theorem pushForms : Obligations.PushForms := by
  refine fun s => ⟨fun rm => ?rm, fun r => ?reg, ?fixed⟩
  case rm =>
    obtain ⟨hpushed, hflags, hstraight⟩ := pushed_push16 (s.operandGap rm) (s.rmRead .word rm)
    exact ⟨_, rfl, hpushed, hflags.trans (operandGap_flags s rm), hstraight⟩
  case reg => exact ⟨_, rfl, get_setSp s (s.gpr.sp - 2) r ▸ pushed_push16 s _⟩
  case fixed =>
    simp only [List.forall_mem_cons]
    refine ⟨?es, ?cs, ?ss, ?ds, ?f, fun _ h => absurd h List.not_mem_nil⟩
    all_goals exact ⟨_, rfl, pushed_push16 s _⟩

/-- No effective address contains SP (R107). -/
theorem ea_setSp (s : State) (v : Word) (m : Mem) : (s.setSp v).ea m = s.ea m := by
  have hbase (b : EaBase) : EaBase.value (s.setSp v).gpr b = EaBase.value s.gpr b := by cases b <;> rfl
  cases m with
  | direct a => rfl
  | plain b => exact hbase b
  | disp8 b d => exact congrArg (· + sext16 d) (hbase b)
  | disp16 b d => exact congrArg (· + d) (hbase b)

/-- A gap leaves every operand's segment and offset. -/
theorem segEff_yieldBus (s : State) (m : Mem) : s.yieldBus.segEff m = s.segEff m := by simp [State.segEff, State.segOr]

theorem ea_yieldBus (s : State) (m : Mem) : s.yieldBus.ea m = s.ea m := by simp [State.ea]

/-- All POP to memory does after the word is read (R162): SP and the operand. -/
theorem popMem_effect (s : State) (m : Mem) (v : Word) :
    let t := s.yieldBus.popped.rmWrite .word (.mem m) v
    s.gpr.onlyWord t.gpr .r100 (s.gpr.sp + 2) ∧ s.yieldBus.stored t (wordBytes (s.segEff m) (s.ea m) v) ∧
      t.flags = s.flags ∧ s.yieldBus.straight t := by
  obtain ⟨hflags, hstraight⟩ := straight_rmWrite s.yieldBus.popped .word (.mem m) v
  obtain ⟨hgpr, hstored⟩ := wroteRm_rmWrite s.yieldBus.popped .word (.mem m) v
  obtain ⟨hsp, -⟩ := popped_frame s.yieldBus
  refine ⟨?sp, ?stored, hflags.trans (yieldBus_flags s), hstraight⟩
  case sp => exact hgpr.symm ▸ yieldBus_gpr s ▸ hsp
  case stored =>
    have hea : s.yieldBus.popped.ea m = s.ea m := (ea_setSp s.yieldBus _ m).trans (ea_yieldBus s m)
    have hseg : s.yieldBus.popped.segEff m = s.segEff m := segEff_yieldBus s m
    rw [hea, hseg] at hstored
    exact stored_congr hstored rfl rfl rfl rfl rfl rfl rfl rfl rfl

/-- All POP to a register does (R163): the destination is written last. -/
theorem popReg_effect (s : State) (r : RegCode) (v : Word) :
    let t := s.popped.setReg r v
    t.gpr.get r = v ∧ (r ≠ .r100 → t.gpr.sp = s.gpr.sp + 2) ∧ (∀ x, x ≠ r → x ≠ .r100 → t.gpr.get x = s.gpr.get x) ∧
      s.noStore t ∧ t.flags = s.flags ∧ s.straight t := by
  obtain ⟨hsp, hothers⟩ := gpr_set_onlyWord s.gpr .r100 (s.gpr.sp + 2)
  obtain ⟨hreg, hkept⟩ := gpr_set_onlyWord s.popped.gpr r v
  exact ⟨hreg, fun hr => (hkept .r100 hr.symm).trans hsp, fun x hx hx4 => (hkept x hx).trans (hothers x hx4),
    noStore_refl s, rfl, straight_refl s⟩

/-- All POP to a segment register does (R164). -/
theorem popSreg_effect (s : State) (r : SegReg) (v : Word) :
    let t := (s.popped.setSreg r v).setDelay
    s.sregs.only t.sregs r v ∧ s.gpr.onlyWord t.gpr .r100 (s.gpr.sp + 2) ∧ t.ip = s.ip ∧ t.flags = s.flags ∧ s.noStore t ∧
      { s with delay := true }.restSame t := by
  obtain ⟨hsp, -⟩ := popped_frame s
  obtain ⟨hsreg, hgpr, hip, hflags, hstore, hrest⟩ := setSreg_setDelay_effect s.popped r v
  exact ⟨hsreg, hgpr.symm ▸ hsp, hip, hflags, hstore, hrest⟩

/-- Settles O17: the word on top is read first; the destination is written after SP has moved. -/
theorem popForms : Obligations.PopForms := by
  refine fun s => ⟨fun m => ⟨_, rfl, popMem_effect s m _⟩, fun r => ?reg, ?sreg⟩
  case reg =>
    simp only [List.forall_mem_cons]
    refine ⟨?short, ?long, fun _ h => absurd h List.not_mem_nil⟩
    all_goals exact ⟨_, rfl, popReg_effect s r _⟩
  case sreg =>
    simp only [List.forall_mem_cons]
    refine ⟨?es, ?ss, ?ds, fun _ h => absurd h List.not_mem_nil⟩
    all_goals exact ⟨_, rfl, popSreg_effect s _ _⟩

/-! ### XCHG -/

theorem gpr_getW_setW_ne (g : Gpr) (w : Width) (r x : RegCode) (v : BitVec w.bits) (h : x ≠ r) :
    (g.setW w r v).getW w x = g.getW w x := by
  cases w with
  | byte => exact gpr_getByte_setByte_ne g r x v h
  | word => exact gpr_get_set_ne g r x v h

/-- Two registers exchanged, the same one included (R166, R167). -/
theorem gpr_exchange (g : Gpr) (w : Width) (r1 r2 : RegCode) :
    let h := (g.setW w r1 (g.getW w r2)).setW w r2 (g.getW w r1)
    h.getW w r1 = g.getW w r2 ∧ h.getW w r2 = g.getW w r1 ∧ ∀ x, x ≠ r1 → x ≠ r2 → h.getW w x = g.getW w x := by
  refine ⟨?first, gpr_getW_setW .., fun x h1 h2 => ?others⟩
  case first =>
    by_cases he : r1 = r2
    · subst he; exact gpr_getW_setW ..
    · exact (gpr_getW_setW_ne _ w r2 r1 _ he).trans (gpr_getW_setW ..)
  case others => exact (gpr_getW_setW_ne _ w r2 x _ h2).trans (gpr_getW_setW_ne g w r1 x _ h1)

/-- Byte registers exchanged leave SP, BP, SI, DI alone (R22). -/
theorem gpr_setByte_setByte_high (g : Gpr) (r1 r2 : RegCode) (a b : Byte) :
    let h := (g.setByte r1 a).setByte r2 b
    h.sp = g.sp ∧ h.bp = g.bp ∧ h.si = g.si ∧ h.di = g.di := by
  obtain ⟨sp1, bp1, si1, di1⟩ := gpr_setByte_high g r1 a
  obtain ⟨sp2, bp2, si2, di2⟩ := gpr_setByte_high (g.setByte r1 a) r2 b
  exact ⟨sp2.trans sp1, bp2.trans bp1, si2.trans si1, di2.trans di1⟩

/-- All XCHG with memory does after the read and the gap (R166). -/
theorem xchgMem_effect (s : State) (w : Width) (m : Mem) (r : RegCode) (v : BitVec w.bits) :
    let t := (s.yieldBus.rmWrite w (.mem m) (s.gpr.getW w r)).setRegW w r v
    s.gpr.onlyReg t.gpr w r v ∧ s.yieldBus.stored t (operandBytes w (s.segEff m) (s.ea m) (s.gpr.getW w r)) ∧
      t.flags = s.flags ∧ s.yieldBus.straight t := by
  obtain ⟨hflags, hstraight⟩ := straight_rmWrite s.yieldBus w (.mem m) (s.gpr.getW w r)
  obtain ⟨hgpr, hstored⟩ := wroteRm_rmWrite s.yieldBus w (.mem m) (s.gpr.getW w r)
  rw [segEff_yieldBus, ea_yieldBus] at hstored
  refine ⟨?reg, stored_congr hstored rfl rfl rfl rfl rfl rfl rfl rfl rfl, hflags.trans (yieldBus_flags s), hstraight⟩
  rw [setRegW_gpr, hgpr, yieldBus_gpr]
  exact gpr_setW_onlyReg s.gpr w r v

/-- All XCHG of AX with a register does (R167). -/
theorem exchangeAx_effect (s : State) (r : RegCode) :
    let t := exchangeAx r s
    t.gpr.ax = s.gpr.get r ∧ t.gpr.get r = s.gpr.ax ∧ (∀ x, x ≠ .r000 → x ≠ r → t.gpr.get x = s.gpr.get x) ∧
      s.noStore t ∧ t.flags = s.flags ∧ s.straight t := by
  obtain ⟨hax, hreg, hothers⟩ := gpr_exchange s.gpr .word .r000 r
  exact ⟨hax, hreg, hothers, noStore_refl s, rfl, straight_refl s⟩

/-- Settles O18: both old values are read before either operand is written. -/
theorem xchgForms : Obligations.XchgForms := by
  refine fun s => ⟨fun w m r => ⟨_, rfl, xchgMem_effect s w m r _⟩, fun w r1 r2 => ?regs, ?ax⟩
  case regs =>
    obtain ⟨hfirst, hsecond, hothers⟩ := gpr_exchange s.gpr w r1 r2
    refine ⟨_, rfl, hfirst, hsecond, hothers, fun hw => ?high, noStore_refl s, rfl, straight_refl s⟩
    subst hw
    exact gpr_setByte_setByte_high s.gpr r1 r2 _ _
  case ax =>
    simp only [List.forall_mem_cons]
    refine ⟨?cx, ?dx, ?bx, ?sp, ?bp, ?si, ?di, fun _ h => absurd h List.not_mem_nil⟩
    all_goals exact ⟨_, rfl, exchangeAx_effect s _⟩

/-! ### IN and OUT -/

/-- A port the platform answers at (R72). -/
theorem ioRead8_of_lookup {s : State} {port : Word} {b : Byte} (h : portLookup s.ports port = some b) :
    s.ioRead8 port = b := by
  unfold State.ioRead8
  rw [h]

/-- All IN of a byte does (R168, R169). -/
theorem inByte_effect (s : State) (port : Word) :
    let t := s.setRegW .byte .r000 (s.ioRead8 port)
    s.gpr.onlyByte t.gpr .r000 (s.ioRead8 port) ∧ (∀ b, portLookup s.ports port = some b → s.ioRead8 port = b) ∧
      s.noStore t ∧ t.flags = s.flags ∧ s.straight t :=
  ⟨gpr_setByte_onlyByte s.gpr .r000 _, fun _ => ioRead8_of_lookup, noStore_refl s, rfl, straight_refl s⟩

/-- All IN of a word does: its low byte from the port, its high byte from the next (R72, D15). -/
theorem inWord_effect (s : State) (port : Word) :
    let t := s.setRegW .word .r000 (s.ioRead16 port)
    s.gpr.onlyWord t.gpr .r000 (s.ioRead16 port) ∧
      (∀ b, portLookup s.ports port = some b → lowByte (s.ioRead16 port) = b) ∧
      (∀ b, portLookup s.ports (port + 1) = some b → highByte (s.ioRead16 port) = b) ∧
      s.noStore t ∧ t.flags = s.flags ∧ s.straight t :=
  ⟨gpr_set_onlyWord s.gpr .r000 _, fun _ h => (lowByte_wordOf _ _).trans (ioRead8_of_lookup h),
    fun _ h => (highByte_wordOf _ _).trans (ioRead8_of_lookup h), noStore_refl s, rfl, straight_refl s⟩

/-- All OUT of a byte does (R170, R171). -/
theorem outByte_effect (s : State) (port : Word) :
    let t := s.ioWriteW .byte port (s.gpr.getW .byte .r000)
    t.busLog = s.busLog ++ [.io port (lowByte s.gpr.ax)] ∧ t.gpr = s.gpr ∧ s.memSame t ∧ t.stale = s.stale ∧
      t.flags = s.flags ∧ s.straight t :=
  ⟨rfl, rfl, fun _ => rfl, rfl, rfl, straight_refl s⟩

/-- All OUT of a word does: low byte first, the high byte to the next port (R72, D15). -/
theorem outWord_effect (s : State) (port : Word) :
    let t := s.ioWriteW .word port (s.gpr.getW .word .r000)
    t.busLog = s.busLog ++ [.io port (lowByte s.gpr.ax), .io (port + 1) (highByte s.gpr.ax)] ∧ t.gpr = s.gpr ∧
      s.memSame t ∧ t.stale = s.stale ∧ t.flags = s.flags ∧ s.straight t :=
  ⟨List.append_assoc _ _ _, rfl, fun _ => rfl, rfl, rfl, straight_refl s⟩

/-- Settles O19: the two forms of each width differ in the port alone. -/
theorem inOutForms : Obligations.InOutForms := by
  intro s port
  rw [BitVec.ofNat_toNat]
  simp only [List.forall_mem_cons]
  refine ⟨⟨?inByte, ?inByteDx, ?none1⟩, ⟨?inWord, ?inWordDx, ?none2⟩, ⟨?outByte, ?outByteDx, ?none3⟩,
    ⟨?outWord, ?outWordDx, ?none4⟩⟩
  case inByte | inByteDx => exact ⟨_, _, rfl, inByte_effect s _⟩
  case inWord | inWordDx => exact ⟨_, _, rfl, inWord_effect s _⟩
  case outByte | outByteDx => exact ⟨_, rfl, outByte_effect s _⟩
  case outWord | outWordDx => exact ⟨_, rfl, outWord_effect s _⟩
  case none1 | none2 | none3 | none4 => exact fun _ h => absurd h List.not_mem_nil

/-! ### XLAT, LEA, LDS, LES -/

/-- The place in the table that XLAT reads, modulo 2^16 (R172). -/
theorem xlat_offset (g : Gpr) :
    g.bx + zext16 (g.getByte .r000) = BitVec.ofNat 16 (g.bx.toNat + g.ax.toNat % 256) := by
  rw [← getByte_al_toNat, BitVec.ofNat_add, BitVec.ofNat_toNat, BitVec.setWidth_eq, BitVec.ofNat_toNat]
  rfl

theorem exec_xlat (s : State) : exec .xlat s = .next (s.setRegW .byte .r000
    (s.read8 (s.segOr .ds) (BitVec.ofNat 16 (s.gpr.bx.toNat + s.gpr.ax.toNat % 256)))) := by
  rw [← xlat_offset]
  rfl

/-- All LDS and LES do once both words are read (R174, R175). -/
theorem loadFar_effect (s : State) (r : RegCode) (sr : SegReg) (off seg : Word) :
    let t := (s.yieldBus.setReg r off).setSreg sr seg
    s.gpr.onlyWord t.gpr r off ∧ s.sregs.only t.sregs sr seg ∧ s.yieldBus.noStore t ∧ t.ip = s.ip ∧ t.flags = s.flags ∧
      s.yieldBus.restSame t := by
  refine ⟨?reg, ?sreg, noStore_refl s.yieldBus, yieldBus_ip s, yieldBus_flags s, restSame_refl s.yieldBus⟩
  case reg => exact yieldBus_gpr s ▸ gpr_set_onlyWord s.yieldBus.gpr r off
  case sreg => exact yieldBus_sregs s ▸ sregs_set_only s.yieldBus.sregs sr seg

/-- Settles O20: XLAT and LEA write one register; LDS and LES a register and a segment register, both words read first. -/
theorem addressLoads : Obligations.AddressLoads := by
  refine fun s => ⟨⟨_, exec_xlat s, setRegW_effect s .byte .r000 _⟩,
    fun r m => ⟨_, rfl, setRegW_effect s .word r (s.ea m)⟩, fun r m => ?far⟩
  simp only [List.forall_mem_cons]
  refine ⟨?lds, ?les, fun _ h => absurd h List.not_mem_nil⟩
  all_goals exact ⟨_, rfl, loadFar_effect s r _ _ _⟩

end Sys2Proof.Machine
end

section
/-! PROOFS of 44_control_transfer.md (O42, O43), 45_processor_control.md (O57, O58) and the reserved rows of
30_encoding.md (O59): CALL, JMP, HLT, WAIT, ESC, NOP, the prefix bytes and the refusals. -/

namespace Sys2Proof.Machine
open Sys2Proof

/-! ### JMP -/

/-- A sum modulo 2^16 in plain arithmetic. -/
theorem add_eq_ofNat (v d : Word) : v + d = BitVec.ofNat 16 (v.toNat + d.toNat) := by
  rw [BitVec.ofNat_add, BitVec.ofNat_toNat, BitVec.ofNat_toNat, BitVec.setWidth_eq, BitVec.setWidth_eq]

/-- All a JMP within the segment does (R325 to R327). -/
theorem jumpNear_effect (s : State) (ip : Word) :
    let t := s.jumpNear ip
    s.jumped t ip ∧ t.gpr = s.gpr ∧ s.memSame t ∧ t.busLog = s.busLog :=
  ⟨jumped_jumpNear s ip, rfl, fun _ => rfl, rfl⟩

/-- All an intersegment JMP does (R328, R329). -/
theorem jumpFar_effect (s : State) (cs ip : Word) :
    let t := s.jumpFar cs ip
    s.jumpedFar t cs ip ∧ t.gpr = s.gpr ∧ s.memSame t ∧ t.busLog = s.busLog :=
  ⟨jumpedFar_jumpFar s cs ip, rfl, fun _ => rfl, rfl⟩

theorem exec_jmpShort (disp : Byte) (s : State) :
    exec (.jmpShort disp) s = .next (s.jumpNear (BitVec.ofInt 16 (s.ip.toNat + disp.toInt))) := by
  rw [← add_sext16_eq_ofInt]
  rfl

/-- Settles O43: every form is one transfer, to a target computed before it. -/
theorem jmpForms : Obligations.JmpForms := by
  refine fun s => ⟨fun disp => ?near, fun disp => ⟨_, exec_jmpShort disp s, jumpNear_effect s _⟩,
    fun rm => ⟨_, rfl, jumpNear_effect s _⟩, fun off seg => ⟨_, rfl, jumpFar_effect s seg off⟩, fun m => ?farInd⟩
  case near =>
    rw [← add_eq_ofNat]
    exact ⟨_, rfl, jumpNear_effect s _⟩
  case farInd =>
    obtain ⟨hjumped, hgpr, hmem, hlog⟩ := jumpFar_effect s.yieldBus (s.farSegment m) (s.farOffset m)
    exact ⟨_, rfl, hjumped, hgpr.trans (yieldBus_gpr s), hmem, hlog.trans (yieldBus_busLog s)⟩

/-! ### CALL -/

/-- All a CALL within the segment does once its target is read (R320, R321). -/
theorem callNear_effect (g : State) (ip : Word) :
    let t := (g.push16 g.ip).jumpNear ip
    g.gpr.onlyWord t.gpr .r100 (g.gpr.sp - 2) ∧ g.storedBytes t (wordBytes g.sregs.ss (g.gpr.sp - 2) g.ip) ∧
      g.jumped t ip := by
  obtain ⟨⟨hsp, hstored, -⟩, hflags, hsregs, -, hrest⟩ := pushed_push16 g g.ip
  exact ⟨hsp, hstored, rfl, rfl, hsregs, hflags, hrest⟩

/-- SP is lowered by 4 for a far return address, and nothing else among the registers changes. -/
theorem pushReturn_gpr (g : State) : g.pushReturn.gpr = g.gpr.set .r100 (g.gpr.sp - 4) := by
  have hsp : g.gpr.sp - 2 - 2 = g.gpr.sp - 4 := by bv_omega
  simp only [State.pushReturn, push16_gpr, yieldBus_gpr]
  exact congrArg (g.gpr.set .r100) hsp

/-- IP_next is stored below CS, in the state PUSH CS and the gap after it leave (R322, R80). -/
theorem pushReturn_stored (g : State) :
    (g.push16 g.sregs.cs).yieldBus.storedBytes g.pushReturn (wordBytes g.sregs.ss (g.gpr.sp - 4) g.ip) := by
  have hsp : (g.push16 g.sregs.cs).yieldBus.gpr.sp - 2 = g.gpr.sp - 4 := by
    rw [yieldBus_gpr, push16_gpr]
    simp only [Gpr.set]
    bv_omega
  have hstored := storedBytes_push16 (g.push16 g.sregs.cs).yieldBus g.ip
  rwa [hsp, yieldBus_sregs, push16_sregs] at hstored

/-- Where no other master writes, both words stand on the stack and nothing else has changed. -/
theorem pushReturn_quiet {g : State} (h : g.busQueue = []) :
    g.storedBytes g.pushReturn
        (wordBytes g.sregs.ss (g.gpr.sp - 2) g.sregs.cs ++ wordBytes g.sregs.ss (g.gpr.sp - 4) g.ip) ∧
      g.restSame g.pushReturn := by
  have hquiet : (g.push16 g.sregs.cs).yieldBus = g.push16 g.sregs.cs := yieldBus_quiet (by simpa using h)
  have hsecond := pushReturn_stored g
  refine ⟨?stored, ?rest⟩
  case stored =>
    rw [hquiet] at hsecond
    exact storedBytes_append (storedBytes_push16 g g.sregs.cs) hsecond (push16_plat g _)
  case rest =>
    rw [State.pushReturn, hquiet]
    simp [State.restSame]

/-- All an intersegment CALL does once its target is read (R322, R323). -/
theorem callFar_effect (g : State) (cs ip : Word) :
    let t := g.pushReturn.jumpFar cs ip
    g.gpr.onlyWord t.gpr .r100 (g.gpr.sp - 4) ∧ t.ip = ip ∧ g.sregs.only t.sregs .cs cs ∧ t.flags = g.flags ∧
      (∃ m, exec .pushCs g = .next m ∧
        m.yieldBus.storedBytes t (wordBytes g.sregs.ss (g.gpr.sp - 4) g.ip) ∧ m.yieldBus.jumpedFar t cs ip) ∧
      (g.busQueue = [] → g.storedBytes t
        (wordBytes g.sregs.ss (g.gpr.sp - 2) g.sregs.cs ++ wordBytes g.sregs.ss (g.gpr.sp - 4) g.ip) ∧ g.restSame t) := by
  obtain ⟨-, hflags, hsregs, -, hrest⟩ := pushed_push16 (g.push16 g.sregs.cs).yieldBus g.ip
  have honly := sregs_set_only g.pushReturn.sregs .cs cs
  refine ⟨pushReturn_gpr g ▸ gpr_set_onlyWord g.gpr .r100 _, rfl, pushReturn_sregs g ▸ honly, pushReturn_flags g,
    ⟨_, rfl, pushReturn_stored g, rfl, rfl, hsregs ▸ honly, hflags, hrest⟩, pushReturn_quiet⟩

theorem exec_callNear (disp : Word) (s : State) :
    exec (.callNear disp) s = .next ((s.push16 s.ip).jumpNear (BitVec.ofNat 16 (s.ip.toNat + disp.toNat))) := by
  rw [← add_eq_ofNat]
  rfl

theorem exec_callNearInd (rm : RM) (s : State) : exec (.callNearInd rm) s =
    .next (((s.operandGap rm).push16 (s.operandGap rm).ip).jumpNear (s.rmRead .word rm)) := by
  rw [operandGap_ip]
  rfl

/-- Settles O42: each form reads its target, pushes the return address and transfers control; the gaps between the words of
a far pointer keep registers, segments, IP and flags. -/
theorem callForms : Obligations.CallForms := by
  refine fun s => ⟨fun disp => ⟨_, exec_callNear disp s, callNear_effect s _⟩,
    fun rm => ⟨_, exec_callNearInd rm s, callNear_effect (s.operandGap rm) _⟩,
    fun off seg => ⟨_, rfl, callFar_effect s seg off⟩, fun m => ⟨_, rfl, ?farInd⟩⟩
  obtain ⟨hsp, hip, hsregs, hflags, hsecond, hquiet⟩ :=
    callFar_effect s.yieldBus.yieldBus (s.farSegment m) (s.farOffset m)
  simp only [yieldBus_gpr, yieldBus_sregs, yieldBus_ip, yieldBus_flags] at hsp hsregs hflags hsecond
  refine ⟨hsp, hip, hsregs, hflags, hsecond, fun hq => ?quiet⟩
  rw [yieldBus_quiet hq, yieldBus_quiet hq] at hquiet ⊢
  exact hquiet hq

/-! ### HLT, WAIT, ESC, NOP -/

theorem exec_wait_low {s : State} (h : s.pins.testLow = true) : exec .wait s = .next { s with waiting := false } :=
  congrArg Host.Outcome.next (if_pos h)

theorem exec_wait_high {s : State} (h : s.pins.testLow = false) :
    exec .wait s = .next { s with ip := s.start, afterWait := s.ip, waiting := true } :=
  congrArg Host.Outcome.next (if_neg (by simp [h]))

/-- What ESC reads it throws away (R399, R74). -/
theorem exec_esc (hi lo : BitVec 3) (rm : RM) (s : State) : exec (.esc hi lo rm) s = .next s := by
  cases rm <;> rfl

theorem unchanged_refl (s : State) : s.unchanged s := ⟨rfl, flagsOnly_setFlags s s.flags⟩

/-- Settles O57: HLT writes the halt state, WAIT the wait state with its two offsets, ESC and NOP nothing. -/
theorem hltWaitEscNop : Obligations.HltWaitEscNop := fun s =>
  ⟨⟨_, rfl, rfl, rfl, noStore_refl s, rfl, rfl, restSame_refl { s with halted := true }⟩,
    fun h => ⟨_, exec_wait_low h, rfl, rfl, noStore_refl s, rfl, rfl, restSame_refl { s with waiting := false }⟩,
    fun h => ⟨_, exec_wait_high h, rfl, rfl, noStore_refl s, rfl, rfl,
      restSame_refl { s with waiting := true, afterWait := s.ip }⟩,
    fun hi lo rm => ⟨s, exec_esc hi lo rm s, unchanged_refl s⟩, ⟨s, rfl, unchanged_refl s⟩⟩

/-! ### Prefix bytes -/

theorem settlePrefixes_of_isPrefix {i : Instr} (hi : Instr.isPrefix i = true) (s : State) : s.settlePrefixes i = s := by
  simp [State.settlePrefixes, hi]

/-- All a prefix byte does, with its end (R115, R402): its own part of the prefix state, and the delay bit for that end. -/
theorem prefixByte_effect {i : Instr} (hi : Instr.isPrefix i = true) (s : State) (p : Prefixes) :
    let t := { s with pfx := p, delay := true }
    t.pfx = p ∧ t.flags = s.flags ∧ t.gpr = s.gpr ∧ s.noStore t ∧ t.sregs = s.sregs ∧ t.ip = s.ip ∧
      { s with pfx := p, delay := true }.restSame t ∧
      (s.entered = false → ∀ tf, boundary tf i t = .next { t with delay := false }) := by
  refine ⟨rfl, rfl, rfl, noStore_refl s, rfl, rfl, restSame_refl { s with pfx := p, delay := true }, fun hentered tf => ?_⟩
  rw [boundary_of_delay (s := { s with pfx := p, delay := true }) tf i hentered rfl, settlePrefixes_of_isPrefix hi]

/-- Settles O58: the six prefix bytes differ in their part of the prefix state alone. -/
theorem prefixBytes : Obligations.PrefixBytes := by
  intro s z
  simp only [List.forall_mem_cons]
  refine ⟨?lock, ?es, ?cs, ?ss, ?ds, ?rep, fun _ h => absurd h List.not_mem_nil⟩
  all_goals exact ⟨_, rfl, prefixByte_effect rfl s _⟩

/-! ### Refusals -/

theorem exec_isReserved {i : Instr} (h : Instr.isReserved i = true) (s : State) :
    ∃ row, exec i s = .refused (.reservedEncoding row) := by
  cases i with
  | resPopCs | res60 | res82 | res83Or | res83And | res83Xor | res8C | res8E | resMovCs | resLea | resLes | resLds | res8F1
  | res8F2 | res8F3 | res8F4 | res8F5 | res8F6 | res8F7 | resC0 | resC8 | resC61 | resC62 | resC63 | resC64 | resC65
  | resC66 | resC67 | resD06 | resD4 | resD5 | resD6 | resF1 | resF61 | resFE2 | resFE3 | resFE4 | resFE5 | resFE6 | resFE7
  | resFF7 | resCallFarReg | resJmpFarReg => exact ⟨_, rfl⟩
  | _ => exact absurd h Bool.false_ne_true

/-- Settles O59: each reserved constructor has its own row, and FFH F4H its own refusal. -/
theorem reservedRefused : Obligations.ReservedRefused := fun s => ⟨fun _ h => exec_isReserved h s, rfl⟩

end Sys2Proof.Machine
end

section
/-! PROOFS of 20_memory.md (O11 to O13) and 70_reset_and_hazards.md (O8): reading what was written, the bytes that may be in
the queue, other masters, and the RESET pin. -/

namespace Sys2Proof.Machine
open Sys2Proof

/-! ### Reading what was written (R66 to R69) -/

theorem busRead_of_ram {s : State} {a : PAddr} (h : s.kindOf a = .ram) : s.busRead a = memRead s.mem a.toNat := by
  unfold State.busRead
  rw [h]

theorem write16_kindOf (s : State) (g o v : Word) (a : PAddr) : (s.write16 g o v).kindOf a = s.kindOf a := by
  simp [State.kindOf]

/-- The bus reads the high byte of a word in RAM at offset + 1, the low byte at the offset. -/
theorem busRead_write16 {s : State} {seg off : Word} (v : Word) (hlow : s.kindOf (phys seg off) = .ram)
    (hhigh : s.kindOf (phys seg (off + 1)) = .ram) :
    (s.write16 seg off v).busRead (phys seg off) = lowByte v ∧
      (s.write16 seg off v).busRead (phys seg (off + 1)) = highByte v := by
  have hne : (phys seg off).toNat ≠ (phys seg (off + 1)).toNat := fun h =>
    phys_succ_ne seg off (BitVec.eq_of_toNat_eq h.symm)
  rw [busRead_of_ram (by rwa [write16_kindOf]), busRead_of_ram (by rwa [write16_kindOf]), memRead_write16, memRead_write16,
    if_neg (fun h => hne h.1), if_pos ⟨rfl, hlow⟩, if_pos ⟨rfl, hhigh⟩]
  exact ⟨rfl, rfl⟩

/-- Settles O11: the two bytes stand at two addresses, and no other address is written. -/
theorem readAfterWrite : Obligations.ReadAfterWrite := by
  intro s seg off v hlow hhigh
  obtain ⟨hreadLow, hreadHigh⟩ := busRead_write16 v hlow hhigh
  refine ⟨?word, hreadLow, hreadHigh, fun a ha ha1 => ?others⟩
  case word => rw [State.read16, hreadLow, hreadHigh, wordOf_highByte_lowByte]
  case others => rw [memRead_write16, if_neg (fun h => ha1 h.1), if_neg (fun h => ha h.1)]

/-! ### The bytes that may be in the queue (R84) -/

theorem mayBePrefetched_iff (s : State) (a : PAddr) : s.mayBePrefetched a = true ↔
    ∃ k < 5, a = phys s.sregs.cs (s.queueStart + BitVec.ofNat 16 k) := by
  have hfirst : s.queueStart + BitVec.ofNat 16 0 = s.queueStart := BitVec.add_zero _
  simp only [State.mayBePrefetched, Bool.or_eq_true, beq_iff_eq]
  constructor
  · rintro ((((h | h) | h) | h) | h)
    · exact ⟨0, by decide, hfirst.symm ▸ h⟩
    · exact ⟨1, by decide, h⟩
    · exact ⟨2, by decide, h⟩
    · exact ⟨3, by decide, h⟩
    · exact ⟨4, by decide, h⟩
  · rintro ⟨k, hk, h⟩
    match k, hk with
    | 0, _ => exact .inl (.inl (.inl (.inl (hfirst ▸ h))))
    | 1, _ => exact .inl (.inl (.inl (.inr h)))
    | 2, _ => exact .inl (.inl (.inr h))
    | 3, _ => exact .inl (.inr h)
    | 4, _ => exact .inr h

/-- The record of an address holds its entries in the queue's record. -/
theorem mem_staleAt {l : List (PAddr × Byte)} {a : PAddr} {b : Byte} : b ∈ staleAt l a ↔ (a, b) ∈ l := by
  induction l with
  | nil => simp [staleAt]
  | cons c rest ih =>
    obtain ⟨x, y⟩ := c
    unfold staleAt
    split
    · next h => subst h; simp [ih]
    · next h => simp [ih, Ne.symm h]

/-- What is taken from a list by a number within or outside it is its head or one of the others. -/
theorem getD_cons_head_or_mem (x : Byte) (l : List Byte) (n : Nat) : (x :: l).getD n x = x ∨ (x :: l).getD n x ∈ l := by
  cases n with
  | zero => exact .inl rfl
  | succ n =>
    rw [List.getD_cons_succ, List.getD_eq_getElem?_getD]
    cases h : l[n]? with
    | none => exact .inl rfl
    | some y => exact .inr (List.mem_of_getElem? h)

theorem fetchAt_of_no_record {s : State} {a : PAddr} (h : ∀ c ∈ s.stale, c.1 ≠ a) : s.fetchAt a = s.busRead a := by
  have hnone : staleAt s.stale a = [] := List.eq_nil_iff_forall_not_mem.mpr fun b hb => h _ (mem_staleAt.mp hb) rfl
  unfold State.fetchAt
  rw [hnone]

theorem fetchAt_cases (s : State) (a : PAddr) : s.fetchAt a = s.busRead a ∨ (a, s.fetchAt a) ∈ s.stale := by
  unfold State.fetchAt
  split
  · exact .inl rfl
  · next old _ =>
    rcases getD_cons_head_or_mem (s.busRead a) (staleAt s.stale a) _ with h | h
    · exact .inl h
    · exact .inr (mem_staleAt.mp h)

/-- All a store into RAM does to the record: nothing, or the old value in front (R84). -/
theorem stale_ramWrite_eq (s : State) (a : PAddr) (b : Byte) :
    (s.ramWrite a b).stale = if s.mayBePrefetched a = true ∧ memRead s.mem a.toNat ≠ b then
      (a, memRead s.mem a.toNat) :: s.stale else s.stale := by
  simp [State.ramWrite]

/-- After a first store into a byte of RAM, what the queue delivers is the new value or the old one (U6). -/
theorem fetchAt_ramWrite {s : State} {a : PAddr} (b : Byte) (hram : s.kindOf a = .ram) (h : ∀ c ∈ s.stale, c.1 ≠ a) :
    (s.ramWrite a b).fetchAt a = b ∨ (s.ramWrite a b).fetchAt a = memRead s.mem a.toNat := by
  have hread : (s.ramWrite a b).busRead a = b :=
    (busRead_of_ram (s := s.ramWrite a b) hram).trans (memRead_memWrite_same s.mem a.toNat b)
  rcases fetchAt_cases (s.ramWrite a b) a with hmem | hrecord
  · exact .inl (hmem.trans hread)
  · rw [stale_ramWrite_eq] at hrecord
    split at hrecord
    · rcases List.mem_cons.mp hrecord with hfirst | hold
      · exact .inr (Prod.ext_iff.mp hfirst).2
      · exact absurd rfl (h _ hold)
    · exact absurd rfl (h _ hrecord)

theorem busWrite_of_ram {s : State} {a : PAddr} (b : Byte) (h : s.kindOf a = .ram) : s.busWrite a b = s.ramWrite a b := by
  unfold State.busWrite
  rw [h]

theorem masterWrite_of_ram {s : State} {a : PAddr} (b : Byte) (h : s.kindOf a = .ram) :
    s.masterWrite a b = s.ramWrite a b := by
  unfold State.masterWrite
  rw [h]

/-- Settles O12: membership in the five addresses, the record after a store, and what the queue delivers from it. -/
theorem prefetchedBytes : Obligations.PrefetchedBytes := by
  refine fun s a => ⟨mayBePrefetched_iff s a, fun h => if_neg (by simp [h]), fun h => if_pos h, fetchAt_of_no_record,
    fetchAt_cases s a, fun b => ⟨fun h => ⟨busWrite_of_ram b h, masterWrite_of_ram b h⟩, fun h => ?elsewhere, fun h => ?same,
      stale_ramWrite, fetchAt_ramWrite b⟩⟩
  case elsewhere => rw [stale_ramWrite_eq, if_neg (by simp [h])]
  case same => rw [stale_ramWrite_eq, if_neg (fun hne => hne.2 h)]

/-! ### Other masters (R80, R82) -/

theorem busLocked_of_lock {s : State} (hlock : s.pfx.lock = true) (hmax : s.plat.maxMode = true) : s.busLocked = true := by
  simp [State.busLocked, hlock, hmax]

/-- Without a LOCK prefix the first entry that waits is honoured. -/
theorem yieldBus_of_entry {s : State} {now : List (PAddr × Byte)} {later : List (List (PAddr × Byte))}
    (hlock : s.pfx.lock = false) (hqueue : s.busQueue = now :: later) :
    s.yieldBus = { s.masterWrites now with busQueue := later } := by
  have hfree : s.busLocked = false := by simp [State.busLocked, hlock]
  unfold State.yieldBus
  rw [if_neg (by simp [hfree]), hqueue]

/-- A sample appends what other masters write to what they have left (D13). -/
theorem sampleInputs_of_sample {s : State} {e : Sample} {rest : List Sample} (h : s.inputs = e :: rest) :
    s.sampleInputs.busQueue = s.busQueue ++ e.busWrites ∧ s.sampleInputs.nmiLatch = (s.nmiLatch || e.nmiEdge) := by
  unfold State.sampleInputs
  rw [h]
  exact ⟨rfl, rfl⟩

/-- Settles O13: a gap is nothing under LOCK or without a request, else the bytes of the first entry. -/
theorem otherMasters : Obligations.OtherMasters := by
  refine fun s => ⟨fun hlock hmax => yieldBus_locked (busLocked_of_lock hlock hmax), yieldBus_quiet,
    fun now later hlock hqueue => ?entry, yieldBus_eq s, fun _ => rfl, fun _ => rfl, rfl, sampleInputs_pfx s,
    fun _ _ h => (sampleInputs_of_sample h).1⟩
  rw [yieldBus_of_entry hlock hqueue]
  exact ⟨rfl, memRead_masterWrites now s⟩

/-! ### The RESET pin (R470) -/

theorem step_of_reset_high {s : State} (h : s.sampleInputs.pins.reset = true) : step s = .next s.served.dormant :=
  if_pos h

theorem step_of_reset_falls {s : State} (hwas : s.pins.reset = true) (h : s.sampleInputs.pins.reset = false) :
    step s = .next s.served.afterReset :=
  (if_neg (by simp [h])).trans (if_pos hwas)

/-- Settles O8: the dormant state keeps registers, memory and log; the state after RESET has the reset values beside them. -/
theorem resetPin : Obligations.ResetPin := by
  refine fun s => ⟨fun h => ⟨_, step_of_reset_high h, ?high⟩, fun hwas h => ⟨_, step_of_reset_falls hwas h, ?falls⟩⟩
  case high =>
    exact ⟨served_gpr s, served_sregs s, served_ip s, served_flags s, rfl, rfl, rfl, rfl, rfl, served_busLog s⟩
  case falls => exact ⟨rfl, rfl, rfl, rfl, rfl, rfl, rfl, rfl, rfl, rfl, rfl, served_busLog s⟩

end Sys2Proof.Machine
end

section
/-! PROOFS of 41_arithmetic.md and 42_logic.md (O22 to O26): ADD, ADC, SUB, SBB, CMP, INC, DEC, NEG, NOT. -/

namespace Sys2Proof.Machine
open Sys2Proof

/-! ### The shapes of two-operand instructions -/

/-- The d form is the operation on its destination, whichever of the two that is (R102). -/
theorem aluOnRmReg_eq (op : AluOp) (d : Bool) (w : Width) (rm : RM) (r : RegCode) (s : State) :
    aluOnRmReg op d w rm r s = aluOnRmImm op w (destOf d rm r) (s.rmRead w (sourceOf d rm r)) s := by
  cases d <;> rfl

theorem flagsOnRmReg_eq (op : AluOp) (d : Bool) (w : Width) (rm : RM) (r : RegCode) (s : State) :
    flagsOnRmReg op d w rm r s = flagsOnRmImm op w (destOf d rm r) (s.rmRead w (sourceOf d rm r)) s := by
  cases d <;> rfl

/-! ### Results in plain arithmetic -/

theorem addResult_eq_ofNat (w : Width) (a b : BitVec w.bits) (c : Bool) :
    addResult a b c = BitVec.ofNat w.bits (a.toNat + b.toNat + c.toNat) :=
  BitVec.eq_of_toNat_eq (by rw [toNat_addResult, BitVec.toNat_ofNat])

theorem difference_lt (w : Width) (a b : BitVec w.bits) (c : Bool) : difference a b c < 2 ^ w.bits :=
  toNat_subResult w a b c ▸ (subResult a b c).isLt

theorem subResult_eq_ofNat (w : Width) (a b : BitVec w.bits) (c : Bool) :
    subResult a b c = BitVec.ofNat w.bits (difference a b c) :=
  BitVec.eq_of_toNat_eq (by rw [toNat_subResult, BitVec.toNat_ofNat, Nat.mod_eq_of_lt (difference_lt w a b c)])

/-! ### ADD and ADC, SUB and SBB -/

/-- All an addition with carry `c` does to its destination and the flags (R200). -/
theorem addition_effect (s : State) (w : Width) (dst : RM) (b : BitVec w.bits) (c : Bool) :
    let a := s.rmRead w dst
    let t := ((s.operandGap dst).setFlags (s.flags.afterAdd a b c)).rmWrite w dst (addResult a b c)
    (s.operandGap dst).wroteRm t w dst (BitVec.ofNat w.bits (a.toNat + b.toNat + c.toNat)) ∧
      s.flags.sum t.flags a b c ∧ (s.operandGap dst).straight t := by
  intro a t
  obtain ⟨hwrote, hflags, hstraight⟩ :=
    wroteRm_flags (s.operandGap dst) (s.flags.afterAdd a b c) (s.operandGap dst).freeIx w dst (addResult a b c)
  exact ⟨addResult_eq_ofNat w a b c ▸ hwrote, (show t.flags = _ from hflags) ▸ sum_afterAdd s.flags w a b c, hstraight⟩

/-- All a subtraction with borrow `c` does to its destination and the flags (R200). -/
theorem subtraction_effect (s : State) (w : Width) (dst : RM) (b : BitVec w.bits) (c : Bool) :
    let a := s.rmRead w dst
    let t := ((s.operandGap dst).setFlags (s.flags.afterSub a b c)).rmWrite w dst (subResult a b c)
    (s.operandGap dst).wroteRm t w dst (BitVec.ofNat w.bits (difference a b c)) ∧
      s.flags.difference t.flags a b c ∧ (s.operandGap dst).straight t := by
  intro a t
  obtain ⟨hwrote, hflags, hstraight⟩ :=
    wroteRm_flags (s.operandGap dst) (s.flags.afterSub a b c) (s.operandGap dst).freeIx w dst (subResult a b c)
  exact ⟨subResult_eq_ofNat w a b c ▸ hwrote, (show t.flags = _ from hflags) ▸ difference_afterSub s.flags w a b c,
    hstraight⟩

section
variable (w : Width) (dst : RM) (b : BitVec w.bits) (s : State)

/-! The gap before the write keeps the flags the operation reads. -/

theorem aluOnRmImm_add : aluOnRmImm aluAdd w dst b s =
    ((s.operandGap dst).setFlags (s.flags.afterAdd (s.rmRead w dst) b false)).rmWrite w dst
      (addResult (s.rmRead w dst) b false) := by
  simp only [aluOnRmImm, aluAdd, operandGap_flags]

theorem aluOnRmImm_adc : aluOnRmImm aluAdc w dst b s =
    ((s.operandGap dst).setFlags (s.flags.afterAdd (s.rmRead w dst) b s.flags.CF)).rmWrite w dst
      (addResult (s.rmRead w dst) b s.flags.CF) := by
  simp only [aluOnRmImm, aluAdc, operandGap_flags]

theorem aluOnRmImm_sub : aluOnRmImm aluSub w dst b s =
    ((s.operandGap dst).setFlags (s.flags.afterSub (s.rmRead w dst) b false)).rmWrite w dst
      (subResult (s.rmRead w dst) b false) := by
  simp only [aluOnRmImm, aluSub, operandGap_flags]

theorem aluOnRmImm_sbb : aluOnRmImm aluSbb w dst b s =
    ((s.operandGap dst).setFlags (s.flags.afterSub (s.rmRead w dst) b s.flags.CF)).rmWrite w dst
      (subResult (s.rmRead w dst) b s.flags.CF) := by
  simp only [aluOnRmImm, aluSbb, operandGap_flags]

end

/-- What an addition does, as the statement of ADD and ADC says it. -/
def State.added (s t : State) (w : Width) (dst : RM) (b : BitVec w.bits) (c : Bool) : Prop :=
  (s.operandGap dst).wroteRm t w dst (BitVec.ofNat w.bits ((s.rmRead w dst).toNat + b.toNat + c.toNat)) ∧
    s.flags.sum t.flags (s.rmRead w dst) b c ∧ (s.operandGap dst).straight t

/-- What a subtraction does, as the statement of SUB and SBB says it. -/
def State.subtracted (s t : State) (w : Width) (dst : RM) (b : BitVec w.bits) (c : Bool) : Prop :=
  (s.operandGap dst).wroteRm t w dst (BitVec.ofNat w.bits (difference (s.rmRead w dst) b c)) ∧
    s.flags.difference t.flags (s.rmRead w dst) b c ∧ (s.operandGap dst).straight t

theorem added_add (s : State) (w : Width) (dst : RM) (b : BitVec w.bits) :
    s.added (aluOnRmImm aluAdd w dst b s) w dst b false := aluOnRmImm_add w dst b s ▸ addition_effect s w dst b false

theorem added_adc (s : State) (w : Width) (dst : RM) (b : BitVec w.bits) :
    s.added (aluOnRmImm aluAdc w dst b s) w dst b s.flags.CF :=
  aluOnRmImm_adc w dst b s ▸ addition_effect s w dst b s.flags.CF

theorem subtracted_sub (s : State) (w : Width) (dst : RM) (b : BitVec w.bits) :
    s.subtracted (aluOnRmImm aluSub w dst b s) w dst b false :=
  aluOnRmImm_sub w dst b s ▸ subtraction_effect s w dst b false

theorem subtracted_sbb (s : State) (w : Width) (dst : RM) (b : BitVec w.bits) :
    s.subtracted (aluOnRmImm aluSbb w dst b s) w dst b s.flags.CF :=
  aluOnRmImm_sbb w dst b s ▸ subtraction_effect s w dst b s.flags.CF

/-- Settles O22: every form is one addition to its destination; ADC takes CF as the carry in. -/
theorem addAdcForms : Obligations.AddAdcForms := by
  refine fun s => ⟨fun d w rm r => ?rmReg, fun rm imm => ?rmImm, fun rm v => ?rmSx, fun imm => ?acc⟩
  all_goals simp only [List.forall_mem_cons]
  case rmReg =>
    exact ⟨⟨_, rfl, aluOnRmReg_eq aluAdd d w rm r s ▸ added_add s w _ _⟩,
      ⟨_, rfl, aluOnRmReg_eq aluAdc d w rm r s ▸ added_adc s w _ _⟩, fun _ h => absurd h List.not_mem_nil⟩
  case rmImm =>
    exact ⟨⟨_, rfl, added_add s _ rm _⟩, ⟨_, rfl, added_adc s _ rm _⟩, fun _ h => absurd h List.not_mem_nil⟩
  case rmSx =>
    exact ⟨⟨_, rfl, added_add s .word rm _⟩, ⟨_, rfl, added_adc s .word rm _⟩, fun _ h => absurd h List.not_mem_nil⟩
  case acc =>
    exact ⟨⟨_, rfl, added_add s _ (.reg .r000) _⟩, ⟨_, rfl, added_adc s _ (.reg .r000) _⟩,
      fun _ h => absurd h List.not_mem_nil⟩

/-- Settles O23: every form is one subtraction from its destination; SBB takes CF as the borrow in. -/
theorem subSbbForms : Obligations.SubSbbForms := by
  refine fun s => ⟨fun d w rm r => ?rmReg, fun rm imm => ?rmImm, fun rm v => ?rmSx, fun imm => ?acc⟩
  all_goals simp only [List.forall_mem_cons]
  case rmReg =>
    exact ⟨⟨_, rfl, aluOnRmReg_eq aluSub d w rm r s ▸ subtracted_sub s w _ _⟩,
      ⟨_, rfl, aluOnRmReg_eq aluSbb d w rm r s ▸ subtracted_sbb s w _ _⟩, fun _ h => absurd h List.not_mem_nil⟩
  case rmImm =>
    exact ⟨⟨_, rfl, subtracted_sub s _ rm _⟩, ⟨_, rfl, subtracted_sbb s _ rm _⟩, fun _ h => absurd h List.not_mem_nil⟩
  case rmSx =>
    exact ⟨⟨_, rfl, subtracted_sub s .word rm _⟩, ⟨_, rfl, subtracted_sbb s .word rm _⟩,
      fun _ h => absurd h List.not_mem_nil⟩
  case acc =>
    exact ⟨⟨_, rfl, subtracted_sub s _ (.reg .r000) _⟩, ⟨_, rfl, subtracted_sbb s _ (.reg .r000) _⟩,
      fun _ h => absurd h List.not_mem_nil⟩

/-! ### CMP -/

/-- All CMP does: the flags of the subtraction, and what they say of the operands (R222). -/
theorem compare_effect (s : State) (w : Width) (a b : BitVec w.bits) :
    let t := s.setFlags (s.flags.afterSub a b false)
    s.flags.difference t.flags a b false ∧ s.flagsOnly t ∧ (t.flags.ZF = true ↔ a = b) ∧
      (t.flags.CF = true ↔ a.toNat < b.toNat) ∧ ((t.flags.SF != t.flags.OF) = true ↔ a.toInt < b.toInt) := by
  have h := difference_afterSub s.flags w a b false
  exact ⟨h, flagsOnly_setFlags s _, difference_ZF_iff_eq h, difference_CF_iff_lt h,
    bne_iff_ne.trans (difference_SF_ne_OF_iff_lt h)⟩

theorem exec_cmpRmReg (d : Bool) (w : Width) (rm : RM) (r : RegCode) (s : State) : exec (.cmpRmReg d w rm r) s =
    .next (s.setFlags (s.flags.afterSub (s.rmRead w (destOf d rm r)) (s.rmRead w (sourceOf d rm r)) false)) :=
  congrArg Host.Outcome.next (flagsOnRmReg_eq aluSub d w rm r s)

/-- Settles O24: every form is one comparison of its two operands. -/
theorem cmpForms : Obligations.CmpForms := fun s =>
  ⟨fun d w rm r => ⟨_, exec_cmpRmReg d w rm r s, compare_effect s w _ _⟩,
    fun _ imm => ⟨_, rfl, compare_effect s imm.width _ _⟩, fun _ _ => ⟨_, rfl, compare_effect s .word _ _⟩,
    fun imm => ⟨_, rfl, compare_effect s imm.width _ _⟩⟩

/-! ### INC and DEC -/

theorem add_one_eq_ofNat {n : Nat} (a : BitVec n) : a + 1 = BitVec.ofNat n (a.toNat + 1) := by
  rw [BitVec.ofNat_add, BitVec.ofNat_toNat, BitVec.setWidth_eq]
  rfl

theorem sub_one_eq_ofNat (w : Width) (a : BitVec w.bits) :
    a - 1 = BitVec.ofNat w.bits (difference a (BitVec.ofNat w.bits 1) false) := by
  rw [← subResult_eq_ofNat]
  exact (BitVec.sub_zero _).symm

/-- All INC does (R207). -/
theorem incRm_effect (s : State) (w : Width) (rm : RM) :
    let t := incRm w rm s
    (s.operandGap rm).wroteRm t w rm (BitVec.ofNat w.bits ((s.rmRead w rm).toNat + 1)) ∧
      s.flags.sumBut t.flags (s.rmRead w rm) (BitVec.ofNat w.bits 1) false ∧ t.flags.CF = s.flags.CF ∧
      (s.operandGap rm).straight t := by
  intro t
  obtain ⟨hwrote, hflags, hstraight⟩ := wroteRm_flags (s.operandGap rm) (s.flags.afterInc (s.rmRead w rm))
    (s.operandGap rm).freeIx w rm (s.rmRead w rm + 1)
  have ht : t.flags = s.flags.afterInc (s.rmRead w rm) := hflags
  obtain ⟨hsum, hcf⟩ := sumBut_afterInc s.flags w (s.rmRead w rm)
  exact ⟨add_one_eq_ofNat (s.rmRead w rm) ▸ hwrote, ht ▸ hsum, ht ▸ hcf, hstraight⟩

/-- All DEC does (R218). -/
theorem decRm_effect (s : State) (w : Width) (rm : RM) :
    let t := decRm w rm s
    (s.operandGap rm).wroteRm t w rm (BitVec.ofNat w.bits (difference (s.rmRead w rm) (BitVec.ofNat w.bits 1) false)) ∧
      s.flags.differenceBut t.flags (s.rmRead w rm) (BitVec.ofNat w.bits 1) false ∧ t.flags.CF = s.flags.CF ∧
      (s.operandGap rm).straight t := by
  intro t
  obtain ⟨hwrote, hflags, hstraight⟩ := wroteRm_flags (s.operandGap rm) (s.flags.afterDec (s.rmRead w rm))
    (s.operandGap rm).freeIx w rm (s.rmRead w rm - 1)
  have ht : t.flags = s.flags.afterDec (s.rmRead w rm) := hflags
  obtain ⟨hdifference, hcf⟩ := differenceBut_afterDec s.flags w (s.rmRead w rm)
  exact ⟨sub_one_eq_ofNat w (s.rmRead w rm) ▸ hwrote, ht ▸ hdifference, ht ▸ hcf, hstraight⟩

/-- Settles O25: the three forms of each are one shape. -/
theorem incDecForms : Obligations.IncDecForms := fun s =>
  ⟨fun rm => ⟨_, rfl, incRm_effect s .byte rm⟩, fun rm => ⟨_, rfl, incRm_effect s .word rm⟩,
    fun r => ⟨_, rfl, incRm_effect s .word (.reg r)⟩, fun rm => ⟨_, rfl, decRm_effect s .byte rm⟩,
    fun rm => ⟨_, rfl, decRm_effect s .word rm⟩, fun r => ⟨_, rfl, decRm_effect s .word (.reg r)⟩⟩

/-! ### NEG and NOT -/

theorem toNat_zero_operand {n : Nat} : (0 : BitVec n).toNat = 0 := BitVec.toNat_zero

/-- 0 - a modulo 2^N. -/
theorem neg_eq_ofNat (w : Width) (a : BitVec w.bits) :
    BitVec.ofNat w.bits (difference 0 a false) = BitVec.ofNat w.bits (2 ^ w.bits - a.toNat) := by
  have ha := a.isLt
  apply BitVec.eq_of_toNat_eq
  rw [BitVec.toNat_ofNat, BitVec.toNat_ofNat, difference, toNat_zero_operand]
  cases w <;> simp only [Width.bits, Bool.toNat_false] at * <;> omega

/-- The negation of a signed number fits but for the lowest. -/
theorem tooBig_neg_iff (w : Width) (a : BitVec w.bits) :
    tooBig w.bits ((0 : BitVec w.bits).toInt - a.toInt - (false.toNat : Int)) ↔ a.toNat = 2 ^ (w.bits - 1) := by
  have ha := a.isLt
  simp only [tooBig, BitVec.toInt_eq_toNat_cond, toNat_zero_operand]
  cases w <;> simp only [Width.bits, Bool.toNat_false] at * <;> omega

/-- What the flags of NEG say of the operand (R221). -/
theorem neg_flags {f g : Flags} {w : Width} {a : BitVec w.bits} (h : f.difference g 0 a false) :
    (g.CF = true ↔ a.toNat ≠ 0) ∧ (g.OF = true ↔ a.toNat = 2 ^ (w.bits - 1)) ∧ (g.AF = true ↔ a.toNat % 16 ≠ 0) := by
  obtain ⟨⟨-, haux, hoverflow, -⟩, hcarry⟩ := h
  refine ⟨hcarry.trans ?_, hoverflow.trans (tooBig_neg_iff w a), haux.trans ?_⟩
  · rw [toNat_zero_operand, Bool.toNat_false, Nat.add_zero, Nat.pos_iff_ne_zero]
  · rw [toNat_zero_operand, Bool.toNat_false, Nat.add_zero, Nat.zero_mod, Nat.pos_iff_ne_zero]

theorem not_eq_ofNat (w : Width) (a : BitVec w.bits) : ~~~ a = BitVec.ofNat w.bits (2 ^ w.bits - 1 - a.toNat) := by
  apply BitVec.eq_of_toNat_eq
  have ha := a.isLt
  rw [BitVec.toNat_not, BitVec.toNat_ofNat, Nat.mod_eq_of_lt (by omega)]

theorem exec_negRm (s : State) (w : Width) (rm : RM) : exec (.negRm w rm) s =
    .next (((s.operandGap rm).setFlags (s.flags.afterSub 0 (s.rmRead w rm) false)).rmWrite w rm
      (subResult 0 (s.rmRead w rm) false)) := rfl

/-- Settles O26: NEG is a subtraction from 0, NOT a plain write of the complement. -/
theorem negNotForms : Obligations.NegNotForms := by
  intro s w rm
  refine ⟨⟨_, exec_negRm s w rm, ?neg⟩, ⟨_, rfl, ?not⟩⟩
  case neg =>
    obtain ⟨hwrote, hflags, hstraight⟩ := wroteRm_flags (s.operandGap rm) (s.flags.afterSub 0 (s.rmRead w rm) false)
      (s.operandGap rm).freeIx w rm (subResult 0 (s.rmRead w rm) false)
    rw [subResult_eq_ofNat, neg_eq_ofNat] at *
    have hdifference := difference_afterSub s.flags w 0 (s.rmRead w rm) false
    rw [← hflags] at hdifference
    exact ⟨hwrote, hdifference, hstraight, neg_flags hdifference⟩
  case not =>
    obtain ⟨hflags, hstraight⟩ := straight_rmWrite (s.operandGap rm) w rm (~~~ s.rmRead w rm)
    exact ⟨not_eq_ofNat w (s.rmRead w rm) ▸ wroteRm_rmWrite (s.operandGap rm) w rm _,
      hflags.trans (operandGap_flags s rm), hstraight⟩

end Sys2Proof.Machine
end

section
/-! PROOFS of 41_arithmetic.md (O28, O29): the decimal adjusts. -/

namespace Sys2Proof.Machine
open Sys2Proof

/-! ### DAA and DAS -/

theorem adjustHigh_al_iff (s : State) :
    adjustHigh (s.gpr.getByte .r000) s.flags.CF = true ↔ 0x99 < s.gpr.ax.toNat % 256 ∨ s.flags.CF = true := by
  rw [adjustHigh, Bool.or_eq_true, decide_eq_true_eq, getByte_al_toNat]

theorem daaOpen_iff (s : State) : daaOpen (s.gpr.getByte .r000) s.flags.AF s.flags.CF = true ↔
    (0x9A ≤ s.gpr.ax.toNat % 256 ∧ s.gpr.ax.toNat % 256 ≤ 0x9F) ∧ s.flags.AF = true ∧ s.flags.CF = false := by
  simp only [daaOpen, Bool.and_eq_true, decide_eq_true_eq, Bool.not_eq_true', getByte_al_toNat, and_assoc]

theorem dasOpen_iff (s : State) : dasOpen (s.gpr.getByte .r000) s.flags.AF s.flags.CF = true ↔
    ((0x9A ≤ s.gpr.ax.toNat % 256 ∧ s.gpr.ax.toNat % 256 ≤ 0x9F) ∧ s.flags.AF = true ∧ s.flags.CF = false) ∨
      (s.gpr.ax.toNat % 256 ≤ 5 ∧ s.flags.AF = true ∧ s.flags.CF = false) := by
  simp only [dasOpen, Bool.and_eq_true, decide_eq_true_eq, Bool.not_eq_true', getByte_al_toNat, and_assoc, or_and_right]

/-- What both adjusts leave in every state: AL and FLAGS alone are written, TF, IF and DF stay. -/
def State.decimalFrame (s t : State) (v : Byte) : Prop :=
  s.gpr.onlyByte t.gpr .r000 v ∧ s.flags.controlsSame t.flags ∧ s.noStore t ∧ s.straight t

theorem decimal_frame (s : State) (v : Byte) (af cf : Bool) : s.decimalFrame (s.decimal v af cf) v :=
  ⟨gpr_setByte_onlyByte s.gpr .r000 v, ⟨rfl, rfl, rfl⟩, noStore_refl s, straight_refl s⟩

theorem freeDecimal_frame (s : State) : ∃ v, s.decimalFrame s.freeDecimal v :=
  ⟨_, gpr_setByte_onlyByte s.gpr .r000 _, ⟨rfl, rfl, rfl⟩, noStore_refl s, straight_refl s⟩

/-- The flags an adjust writes: its two tests, and those of the new AL. -/
theorem decimalFlags_of_tests (s : State) (v : Byte) {af cf : Bool} {low high : Prop} (hlow : af = true ↔ low)
    (hhigh : cf = true ↔ high) :
    ((s.decimal v af cf).flags.AF = true ↔ low) ∧ ((s.decimal v af cf).flags.CF = true ↔ high) ∧
      (s.decimal v af cf).flags.szpOf 8 v.toNat :=
  ⟨hlow, hhigh, szpOf_setSzp s.flags v⟩

/-- The four values of DAA by its two tests (R211). -/
theorem daaResult_toNat (s : State) {low high : Prop} (hlow : adjustLow (s.gpr.getByte .r000) s.flags.AF = true ↔ low)
    (hhigh : adjustHigh (s.gpr.getByte .r000) s.flags.CF = true ↔ high) :
    let al := s.gpr.ax.toNat % 256
    let v := daaResult (s.gpr.getByte .r000) s.flags.AF s.flags.CF
    (low → high → v.toNat = (al + 0x66) % 256) ∧ (low → ¬ high → v.toNat = (al + 6) % 256) ∧
      (¬ low → high → v.toNat = (al + 0x60) % 256) ∧ (¬ low → ¬ high → v.toNat = al) := by
  intro al v
  have hal : (s.gpr.getByte .r000).toNat = al := getByte_al_toNat s.gpr
  have hlt : al < 256 := Nat.mod_lt _ (by decide)
  rw [← hlow, ← hhigh]
  simp only [v, daaResult]
  refine ⟨fun hl hh => ?_, fun hl hh => ?_, fun hl hh => ?_, fun hl hh => ?_⟩
  all_goals
    simp only [hl, hh, if_true, if_false, BitVec.toNat_add, BitVec.ofNat_eq_ofNat, BitVec.toNat_ofNat, hal, Bool.false_eq_true]
    omega

/-- The four values of DAS by its two tests (R226). -/
theorem dasResult_toNat (s : State) {low high : Prop} (hlow : adjustLow (s.gpr.getByte .r000) s.flags.AF = true ↔ low)
    (hhigh : adjustHigh (s.gpr.getByte .r000) s.flags.CF = true ↔ high) :
    let al := s.gpr.ax.toNat % 256
    let v := dasResult (s.gpr.getByte .r000) s.flags.AF s.flags.CF
    (low → high → v.toNat = (al + 0x9A) % 256) ∧ (low → ¬ high → v.toNat = (al + 0xFA) % 256) ∧
      (¬ low → high → v.toNat = (al + 0xA0) % 256) ∧ (¬ low → ¬ high → v.toNat = al) := by
  intro al v
  have hal : (s.gpr.getByte .r000).toNat = al := getByte_al_toNat s.gpr
  have hlt : al < 256 := Nat.mod_lt _ (by decide)
  rw [← hlow, ← hhigh]
  simp only [v, dasResult]
  refine ⟨fun hl hh => ?_, fun hl hh => ?_, fun hl hh => ?_, fun hl hh => ?_⟩
  all_goals
    simp only [hl, hh, if_true, if_false, BitVec.toNat_sub, BitVec.ofNat_eq_ofNat, BitVec.toNat_ofNat, hal, Bool.false_eq_true]
    omega

theorem exec_daa_open {s : State} (h : daaOpen (s.gpr.getByte .r000) s.flags.AF s.flags.CF = true) :
    exec .daa s = .next s.freeDecimal := congrArg Host.Outcome.next (if_pos h)

theorem exec_daa {s : State} (h : ¬ daaOpen (s.gpr.getByte .r000) s.flags.AF s.flags.CF = true) :
    exec .daa s = .next (s.decimal (daaResult (s.gpr.getByte .r000) s.flags.AF s.flags.CF)
      (adjustLow (s.gpr.getByte .r000) s.flags.AF) (adjustHigh (s.gpr.getByte .r000) s.flags.CF)) :=
  congrArg Host.Outcome.next (if_neg h)

theorem exec_das_open {s : State} (h : dasOpen (s.gpr.getByte .r000) s.flags.AF s.flags.CF = true) :
    exec .das s = .next s.freeDecimal := congrArg Host.Outcome.next (if_pos h)

theorem exec_das {s : State} (h : ¬ dasOpen (s.gpr.getByte .r000) s.flags.AF s.flags.CF = true) :
    exec .das s = .next (s.decimal (dasResult (s.gpr.getByte .r000) s.flags.AF s.flags.CF)
      (adjustLow (s.gpr.getByte .r000) s.flags.AF) (adjustHigh (s.gpr.getByte .r000) s.flags.CF)) :=
  congrArg Host.Outcome.next (if_neg h)

/-- Settles O28: in the states of U3 the frame is all that is said; elsewhere the two tests give AL and the flags. -/
theorem daaDas : Obligations.DaaDas := by
  intro s
  have hlow := adjustLow_al_iff s
  have hhigh := adjustHigh_al_iff s
  refine ⟨?daa, ?das⟩
  case daa =>
    by_cases hopen : daaOpen (s.gpr.getByte .r000) s.flags.AF s.flags.CF = true
    · obtain ⟨v, hbyte, hcontrols, hstore, hstraight⟩ := freeDecimal_frame s
      exact ⟨_, v, exec_daa_open hopen, hbyte, absurd ((daaOpen_iff s).mp hopen), hcontrols, hstore, hstraight⟩
    · obtain ⟨hbyte, hcontrols, hstore, hstraight⟩ := decimal_frame s _ _ _
      obtain ⟨haf, hcf, hszp⟩ := decimalFlags_of_tests s (daaResult (s.gpr.getByte .r000) s.flags.AF s.flags.CF) hlow hhigh
      exact ⟨_, _, exec_daa hopen, hbyte, fun _ => ⟨haf, hcf, hszp, daaResult_toNat s hlow hhigh⟩, hcontrols, hstore,
        hstraight⟩
  case das =>
    by_cases hopen : dasOpen (s.gpr.getByte .r000) s.flags.AF s.flags.CF = true
    · obtain ⟨v, hbyte, hcontrols, hstore, hstraight⟩ := freeDecimal_frame s
      exact ⟨_, v, exec_das_open hopen, hbyte,
        fun h1 h2 => (((dasOpen_iff s).mp hopen).elim h1 h2).elim, hcontrols, hstore, hstraight⟩
    · obtain ⟨hbyte, hcontrols, hstore, hstraight⟩ := decimal_frame s _ _ _
      obtain ⟨haf, hcf, hszp⟩ := decimalFlags_of_tests s (dasResult (s.gpr.getByte .r000) s.flags.AF s.flags.CF) hlow hhigh
      exact ⟨_, _, exec_das hopen, hbyte, fun _ _ => ⟨haf, hcf, hszp, dasResult_toNat s hlow hhigh⟩, hcontrols, hstore,
        hstraight⟩

/-- What ADD of a byte to AL leaves for DAA: AL, and the two carries as its tests see them (R203). -/
theorem exec_addAl {s t : State} {b : Byte} (h : exec (.addAccImm (.byte b)) s = .next t) :
    t.gpr.ax.toNat % 256 = (s.gpr.ax.toNat % 256 + b.toNat) % 256 ∧
      (t.flags.AF = true ↔ 16 ≤ s.gpr.ax.toNat % 256 % 16 + b.toNat % 16) ∧
      (t.flags.CF = true ↔ 256 ≤ s.gpr.ax.toNat % 256 + b.toNat) := by
  obtain rfl : aluOnRmImm aluAdd .byte (.reg .r000) b s = t := Host.Outcome.next.inj h
  obtain ⟨⟨⟨hal, -⟩, -⟩, ⟨⟨-, haf, -⟩, hcf⟩, -⟩ := added_add s .byte (.reg .r000) b
  have ha : (s.rmRead .byte (.reg .r000)).toNat = s.gpr.ax.toNat % 256 := getByte_al_toNat s.gpr
  rw [ha] at hal haf hcf
  refine ⟨?_, haf, hcf⟩
  rw [← getByte_al_toNat, hal]
  exact BitVec.toNat_ofNat _ _

/-! The tests of DAA on the sum of two packed decimal bytes, whose digits add up to `hi` and `lo` (R211). -/

/-- A low digit that carries is too small for a state of U3. -/
theorem decimalSum_closed {hi lo : Nat} (hlo : lo ≤ 18) :
    ¬ ((0x9A ≤ (hi * 16 + lo) % 256 ∧ (hi * 16 + lo) % 256 ≤ 0x9F) ∧ 16 ≤ lo ∧ ¬ 256 ≤ hi * 16 + lo) := by omega

theorem decimalSum_low {hi lo : Nat} (hlo : lo ≤ 18) : 9 < (hi * 16 + lo) % 256 % 16 ∨ 16 ≤ lo ↔ 10 ≤ lo := by omega

theorem decimalSum_high {hi lo : Nat} (hhi : hi ≤ 18) (hlo : lo ≤ 18) :
    0x99 < (hi * 16 + lo) % 256 ∨ 256 ≤ hi * 16 + lo ↔ 100 ≤ hi * 10 + lo := by omega

/-- The sum adjusted by both tests is the decimal sum, packed. -/
theorem decimalSum_adjusted : ∀ hi < 19, ∀ lo < 19,
    ((hi * 16 + lo) % 256 + ((if 10 ≤ lo then 6 else 0) + if 100 ≤ hi * 10 + lo then 0x60 else 0)) % 256 =
      (hi * 10 + lo) % 100 / 10 * 16 + (hi * 10 + lo) % 10 := by decide

/-- Settles O29: with digits below 10 no state of U3 can arise, and the two tests of DAA are the two decimal carries. -/
theorem decimalAddition : Obligations.DecimalAddition := by
  intro s t a1 a0 b1 b0 ha1 ha0 hb1 hb0 hal hadd
  have hb : (BitVec.ofNat 8 (b1 * 16 + b0)).toNat = b1 * 16 + b0 := by
    rw [BitVec.toNat_ofNat, Nat.mod_eq_of_lt (by omega)]
  have hsumDigits : a1 * 16 + a0 + (b1 * 16 + b0) = (a1 + b1) * 16 + (a0 + b0) := by omega
  have hlowDigits : (a1 * 16 + a0) % 16 + (b1 * 16 + b0) % 16 = a0 + b0 := by omega
  obtain ⟨hsum, haf, hcf⟩ := exec_addAl hadd
  rw [hal, hb] at hsum haf hcf
  rw [hsumDigits] at hsum hcf
  rw [hlowDigits] at haf
  have hhi : a1 + b1 ≤ 18 := by omega
  have hlo : a0 + b0 ≤ 18 := by omega
  rw [Nat.add_assoc ((a1 + b1) * 10) a0 b0]
  generalize a1 + b1 = hi at *
  generalize a0 + b0 = lo at *
  have hcf' : t.flags.CF = false ↔ ¬ 256 ≤ hi * 16 + lo := by rw [← Bool.not_eq_true, hcf]
  obtain ⟨⟨u, v, hexec, ⟨hv, -⟩, hclosed, -⟩, -⟩ := daaDas t
  rw [hsum, haf, hcf, hcf', decimalSum_low hlo, decimalSum_high hhi hlo] at hclosed
  obtain ⟨-, hcarry, -, hlowHigh, hlow, hhigh, hnone⟩ := hclosed (decimalSum_closed hlo)
  refine ⟨u, hexec, hcarry, ?_⟩
  rw [← getByte_al_toNat, hv, ← decimalSum_adjusted hi (by omega) lo (by omega)]
  by_cases hl : 10 ≤ lo
  · by_cases hh : 100 ≤ hi * 10 + lo
    · rw [hlowHigh hl hh, if_pos hl, if_pos hh]
    · rw [hlow hl hh, if_pos hl, if_neg hh]
  · by_cases hh : 100 ≤ hi * 10 + lo
    · rw [hhigh hl hh, if_neg hl, if_pos hh]
    · rw [hnone hl hh, if_neg hl, if_neg hh]
      exact (Nat.mod_mod _ _).symm

end Sys2Proof.Machine
end

section
/-! PROOFS of 41_arithmetic.md (O31 to O33): multiplication, division and the divide error. -/

namespace Sys2Proof.Machine
open Sys2Proof

/-! ### The halves of words and double words in plain arithmetic -/

theorem lowByte_toNat (v : Word) : (lowByte v).toNat = v.toNat % 256 := BitVec.extractLsb'_toNat 0 8 v

theorem highByte_toNat (v : Word) : (highByte v).toNat = v.toNat / 256 := by
  have hv : v.toNat < 65536 := v.isLt
  rw [highByte, BitVec.extractLsb'_toNat, Nat.shiftRight_eq_div_pow]
  omega

theorem lowWord_toNat (v : BitVec 32) : (v.extractLsb' 0 16).toNat = v.toNat % 65536 := BitVec.extractLsb'_toNat 0 16 v

theorem highWord_toNat (v : BitVec 32) : (v.extractLsb' 16 16).toNat = v.toNat / 65536 := by
  have hv : v.toNat < 4294967296 := v.isLt
  rw [BitVec.extractLsb'_toNat, Nat.shiftRight_eq_div_pow]
  omega

theorem toNat_append_word (hi lo : Word) : (hi ++ lo).toNat = hi.toNat * 65536 + lo.toNat := by
  rw [BitVec.toNat_append, ← Nat.shiftLeft_add_eq_or_of_lt lo.isLt, Nat.shiftLeft_eq]

/-- A signed double word by its halves: the high one signed, the low one not. -/
theorem toInt_halves (v : BitVec 32) :
    (v.extractLsb' 16 16).toInt * 65536 + (v.extractLsb' 0 16).toNat = v.toInt := by
  have hv : v.toNat < 4294967296 := v.isLt
  rw [BitVec.toInt_eq_toNat_cond, BitVec.toInt_eq_toNat_cond, highWord_toNat, lowWord_toNat]
  omega

/-- DX : AX written: the two words, and no other register. -/
theorem setDxAx_words (s : State) (v : BitVec 32) :
    (s.setDxAx v).gpr.ax = v.extractLsb' 0 16 ∧ (s.setDxAx v).gpr.dx = v.extractLsb' 16 16 ∧
      ∀ x, x ≠ .r000 → x ≠ .r010 → (s.setDxAx v).gpr.get x = s.gpr.get x :=
  ⟨rfl, rfl, fun x h0 h2 => (gpr_get_set_ne _ .r000 x _ h0).trans (gpr_get_set_ne s.gpr .r010 x _ h2)⟩

/-! ### MUL and IMUL -/

/-- What a multiplication leaves but the product: CF and OF say whether its upper half is significant. -/
theorem mulFlags_frame (s : State) {c : Bool} {fits : Prop} (hc : c = true ↔ ¬ fits) (g : Gpr) :
    let t := { s.mulFlags c with gpr := g }
    (t.flags.CF = true ↔ ¬ fits) ∧ (t.flags.OF = true ↔ ¬ fits) ∧ s.flags.controlsSame t.flags ∧ s.noStore t ∧
      s.straight t :=
  ⟨hc, hc, ⟨rfl, rfl, rfl⟩, noStore_refl s, straight_refl s⟩

/-- A product of two numbers of `n` bits has at most `2 n`. -/
theorem toNat_product {n m : Nat} (a b : BitVec n) (hm : 2 ^ n * 2 ^ n ≤ 2 ^ m) :
    (BitVec.ofNat m (a.toNat * b.toNat)).toNat = a.toNat * b.toNat := by
  rw [BitVec.toNat_ofNat, Nat.mod_eq_of_lt]
  exact (Nat.mul_lt_mul'' a.isLt b.isLt).trans_le hm

theorem highByte_ne_zero_iff (v : Word) : (highByte v != 0) = true ↔ ¬ v.toNat < 256 := by
  rw [bne_iff_ne, ne_eq, ← BitVec.toNat_inj, highByte_toNat]
  simp only [BitVec.ofNat_eq_ofNat, BitVec.toNat_ofNat]
  omega

theorem highWord_ne_zero_iff {v : BitVec 32} {x : Nat} (h : v.toNat = x) :
    (v.extractLsb' 16 16 != 0) = true ↔ ¬ x < 65536 := by
  rw [bne_iff_ne, ne_eq, ← BitVec.toNat_inj, highWord_toNat, h]
  simp only [BitVec.ofNat_eq_ofNat, BitVec.toNat_ofNat]
  omega

/-- A signed product of two numbers of `n` bits fits `m` bits. -/
theorem toInt_product {n m : Nat} (a b : BitVec n) (hm : 2 ^ (n - 1) * 2 ^ (n - 1) < 2 ^ (m - 1))
    (h0 : 0 < m) : (BitVec.ofInt m (a.toInt * b.toInt)).toInt = a.toInt * b.toInt := by
  have habs (x : BitVec n) : x.toInt.natAbs ≤ 2 ^ (n - 1) := by
    have hlo := BitVec.le_toInt x
    have hhi := BitVec.toInt_lt (x := x)
    have hpow : ((2 ^ (n - 1) : Nat) : Int) = 2 ^ (n - 1) := by push_cast; rfl
    omega
  have hproduct : (a.toInt * b.toInt).natAbs < 2 ^ (m - 1) := by
    rw [Int.natAbs_mul]
    exact (Nat.mul_le_mul (habs a) (habs b)).trans_lt hm
  have hpow : 2 ^ m = 2 * 2 ^ (m - 1) := by rw [← Nat.pow_succ', Nat.succ_eq_add_one, Nat.sub_add_cancel h0]
  rw [BitVec.toInt_ofInt]
  apply Int.bmod_eq_of_le <;> rw [hpow] <;> omega

theorem ne_sext16_low_iff (v : Word) : (v != sext16 (lowByte v)) = true ↔ ¬ ¬ tooBig 8 v.toInt := by
  have hv : v.toNat < 65536 := v.isLt
  rw [bne_iff_ne, ne_eq, ← BitVec.toInt_inj, sext16_toInt, BitVec.toInt_eq_toNat_cond, BitVec.toInt_eq_toNat_cond,
    lowByte_toNat]
  simp only [tooBig]
  omega

theorem ne_signExtend_low_iff {v : BitVec 32} {x : Int} (h : v.toInt = x) :
    (v != (v.extractLsb' 0 16).signExtend 32) = true ↔ ¬ ¬ tooBig 16 x := by
  subst h
  have hv : v.toNat < 4294967296 := v.isLt
  rw [bne_iff_ne, ne_eq, ← BitVec.toInt_inj, BitVec.toInt_signExtend_of_le (by decide), BitVec.toInt_eq_toNat_cond,
    BitVec.toInt_eq_toNat_cond, lowWord_toNat]
  simp only [tooBig]
  omega

/-- All a multiplication of words leaves (R227, R229). -/
theorem setDxAx_mulFlags_effect (s : State) (v : BitVec 32) {c : Bool} {fits : Prop} (hc : c = true ↔ ¬ fits) :
    let t := (s.mulFlags c).setDxAx v
    (t.gpr.dx.toNat * 65536 + t.gpr.ax.toNat = v.toNat ∧ t.gpr.dx.toInt * 65536 + t.gpr.ax.toNat = v.toInt) ∧
      (∀ x, x ≠ .r000 → x ≠ .r010 → t.gpr.get x = s.gpr.get x) ∧
      (t.flags.CF = true ↔ ¬ fits) ∧ (t.flags.OF = true ↔ ¬ fits) ∧ s.flags.controlsSame t.flags ∧ s.noStore t ∧
      s.straight t := by
  intro t
  obtain ⟨hax, hdx, hothers⟩ := setDxAx_words (s.mulFlags c) v
  refine ⟨⟨?_, ?_⟩, hothers, mulFlags_frame s hc _⟩
  · rw [hax, hdx, highWord_toNat, lowWord_toNat]
    exact Nat.div_add_mod' _ _
  · rw [hax, hdx]
    exact toInt_halves v

/-- Settles O31: the product is exact at twice the width, and CF and OF compare it with its lower half. -/
theorem mulImulForms : Obligations.MulImulForms := by
  refine fun s rm => ⟨?mulByte, ?mulWord, ?imulByte, ?imulWord⟩
  case mulByte =>
    refine ⟨_, _, rfl, gpr_set_onlyWord s.gpr .r000 _, ?_, mulFlags_frame s (highByte_ne_zero_iff _) _⟩
    rw [← getByte_al_toNat]
    exact toNat_product _ _ (by decide)
  case mulWord =>
    have hp := toNat_product (m := 32) s.gpr.ax (s.rmRead .word rm) (by decide)
    obtain ⟨⟨hvalue, -⟩, heffect⟩ := setDxAx_mulFlags_effect s _ (highWord_ne_zero_iff hp)
    exact ⟨_, rfl, hvalue.trans hp, heffect⟩
  case imulByte =>
    exact ⟨_, _, rfl, gpr_set_onlyWord s.gpr .r000 _, toInt_product _ _ (by decide) (by decide),
      mulFlags_frame s (ne_sext16_low_iff _) _⟩
  case imulWord =>
    have hp := toInt_product (m := 32) s.gpr.ax (s.rmRead .word rm) (by decide) (by decide)
    obtain ⟨⟨-, hvalue⟩, heffect⟩ := setDxAx_mulFlags_effect s _ (ne_signExtend_low_iff hp)
    exact ⟨_, rfl, hvalue.trans hp, heffect⟩

/-! ### DIV -/

/-- What a division that completes leaves but quotient and remainder: the six arithmetic flags are free (U2). -/
theorem freeArithFlags_frame (s : State) (g : Gpr) :
    let t := { s.freeArithFlags with gpr := g }
    s.flags.controlsSame t.flags ∧ s.noStore t ∧ s.straight t :=
  ⟨⟨rfl, rfl, rfl⟩, noStore_refl s, straight_refl s⟩

theorem dividend_word_toNat (s : State) : (s.dividend .word).toNat = s.gpr.dx.toNat * 65536 + s.gpr.ax.toNat :=
  toNat_append_word s.gpr.dx s.gpr.ax

theorem dividend_word_toInt (s : State) : (s.dividend .word).toInt = s.gpr.dx.toInt * 65536 + s.gpr.ax.toNat := by
  have hax : s.gpr.ax.toNat < 65536 := s.gpr.ax.isLt
  have hdx : s.gpr.dx.toNat < 65536 := s.gpr.dx.isLt
  rw [BitVec.toInt_eq_toNat_cond, BitVec.toInt_eq_toNat_cond, dividend_word_toNat]
  simp only [Width.bits]
  omega

theorem exec_divRm {s : State} {w : Width} {rm : RM} (h0 : (s.rmRead w rm).toNat ≠ 0)
    (hq : (s.dividend w).toNat / (s.rmRead w rm).toNat ≤ 2 ^ w.bits - 1) :
    exec (.divRm w rm) s = .next (s.freeArithFlags.setQuotient w
      (BitVec.ofNat w.bits ((s.dividend w).toNat / (s.rmRead w rm).toNat))
      (BitVec.ofNat w.bits ((s.dividend w).toNat % (s.rmRead w rm).toNat))) :=
  if_neg (fun h => h.elim h0 (fun hlt => absurd hq (Nat.not_le.mpr hlt)))

theorem exec_idivRm {s : State} {w : Width} {rm : RM} (h0 : (s.rmRead w rm).toInt ≠ 0)
    (hlow : -(2 ^ (w.bits - 1) - 1) ≤ (s.dividend w).toInt.tdiv (s.rmRead w rm).toInt)
    (hhigh : (s.dividend w).toInt.tdiv (s.rmRead w rm).toInt ≤ 2 ^ (w.bits - 1) - 1) :
    exec (.idivRm w rm) s = .next (s.freeArithFlags.setQuotient w
      (BitVec.ofInt w.bits ((s.dividend w).toInt.tdiv (s.rmRead w rm).toInt))
      (BitVec.ofInt w.bits ((s.dividend w).toInt.tmod (s.rmRead w rm).toInt))) :=
  if_neg (by omega)

/-- The words of a remainder and a quotient written to DX : AX. -/
theorem setQuotient_word (s : State) (q r : Word) :
    let t := s.setQuotient .word q r
    t.gpr.ax = q ∧ t.gpr.dx = r ∧ ∀ x, x ≠ .r000 → x ≠ .r010 → t.gpr.get x = s.gpr.get x := by
  obtain ⟨hax, hdx, hothers⟩ := setDxAx_words s (r ++ q)
  have hq : q.toNat < 65536 := q.isLt
  have hr : r.toNat < 65536 := r.isLt
  refine ⟨hax.trans (BitVec.eq_of_toNat_eq ?_), hdx.trans (BitVec.eq_of_toNat_eq ?_), hothers⟩
  · rw [lowWord_toNat, toNat_append_word]; omega
  · rw [highWord_toNat, toNat_append_word]; omega

/-- The bytes of a remainder and a quotient written to AH and AL. -/
theorem setQuotient_byte (s : State) (q r : Byte) :
    let t := s.setQuotient .byte q r
    t.gpr.getByte .r000 = q ∧ t.gpr.getByte .r100 = r ∧
      s.gpr.onlyWord t.gpr .r000 (BitVec.ofNat 16 (r.toNat * 256 + q.toNat)) :=
  ⟨lowByte_wordOf r q, highByte_wordOf r q, setAhAl_onlyWord s r q⟩

theorem toNat_ofNat_of_le {n v : Nat} (h : v ≤ 2 ^ n - 1) : (BitVec.ofNat n v).toNat = v := by
  have hpos := Nat.two_pow_pos n
  rw [BitVec.toNat_ofNat, Nat.mod_eq_of_lt (by omega)]

/-- A remainder fits the width of the divisor. -/
theorem remainder_toNat {n : Nat} (v : Nat) (d : BitVec n) (h0 : d.toNat ≠ 0) :
    (BitVec.ofNat n (v % d.toNat)).toNat = v % d.toNat :=
  toNat_ofNat_of_le (by have := Nat.mod_lt v (Nat.pos_of_ne_zero h0); have := d.isLt; omega)

/-! ### IDIV -/

/-- The quotient is truncated toward zero: the remainder is smaller than the divisor and has the dividend's sign (R234). -/
theorem truncated_quotient_right {n d q r : Int} (h0 : d ≠ 0) (hq : q = n.tdiv d) (hr : r = n.tmod d) :
    q * d + r = n ∧ r.natAbs < d.natAbs ∧ (r < 0 → n < 0) ∧ (0 < r → 0 < n) := by
  subst hq hr
  refine ⟨Int.tdiv_mul_add_tmod n d, ?_, fun h => ?_, fun h => ?_⟩
  · rw [Int.natAbs_tmod]
    exact Nat.mod_lt _ (Int.natAbs_pos.mpr h0)
  · exact Int.not_le.mp fun hn => absurd (Int.tmod_nonneg d hn) (Int.not_le.mpr h)
  · have hneg := Int.neg_tmod n d
    exact Int.not_le.mp fun hn => by
      have hnonneg := Int.tmod_nonneg d (Int.neg_nonneg.mpr hn)
      omega

/-- A signed number in the symmetric range of `n` bits (D12). -/
theorem toInt_ofInt_of_range {n : Nat} (hn : 0 < n) {x : Int} (hlow : -(2 ^ (n - 1) - 1) ≤ x)
    (hhigh : x ≤ 2 ^ (n - 1) - 1) : (BitVec.ofInt n x).toInt = x := by
  have hpow : 2 ^ n = 2 * 2 ^ (n - 1) := by rw [← Nat.pow_succ', Nat.succ_eq_add_one, Nat.sub_add_cancel hn]
  have hcast : ((2 ^ (n - 1) : Nat) : Int) = 2 ^ (n - 1) := by push_cast; rfl
  rw [BitVec.toInt_ofInt]
  apply Int.bmod_eq_of_le <;> rw [hpow] <;> omega

/-- A remainder fits the width of its divisor. -/
theorem remainder_toInt {n : Nat} (hn : 0 < n) (v : Int) (d : BitVec n) (h0 : d.toInt ≠ 0) :
    (BitVec.ofInt n (v.tmod d.toInt)).toInt = v.tmod d.toInt := by
  obtain ⟨-, hlt, -⟩ := truncated_quotient_right (n := v) h0 rfl rfl
  have hlow := BitVec.le_toInt d
  have hhigh := BitVec.toInt_lt (x := d)
  exact toInt_ofInt_of_range hn (by omega) (by omega)

/-- Settles O32: the quotient is in range and the remainder below the divisor, so both registers hold them exactly. -/
theorem divisionCompletes : Obligations.DivisionCompletes := by
  refine fun s rm => ⟨fun h0 hq => ?divByte, fun h0 hq => ?divWord, fun h0 hlow hhigh => ?idivByte,
    fun h0 hlow hhigh => ?idivWord⟩
  case divByte =>
    refine ⟨_, exec_divRm (w := .byte) h0 hq, ?_, freeArithFlags_frame s _⟩
    obtain ⟨-, -, hword⟩ := setQuotient_byte s.freeArithFlags
      (BitVec.ofNat 8 (s.gpr.ax.toNat / (s.rmRead .byte rm).toNat)) (BitVec.ofNat 8 (s.gpr.ax.toNat % (s.rmRead .byte rm).toNat))
    rwa [toNat_ofNat_of_le (n := 8) hq, remainder_toNat _ _ h0] at hword
  case divWord =>
    rw [← dividend_word_toNat] at hq ⊢
    obtain ⟨hax, hdx, hothers⟩ := setQuotient_word s.freeArithFlags
      (BitVec.ofNat 16 ((s.dividend .word).toNat / (s.rmRead .word rm).toNat))
      (BitVec.ofNat 16 ((s.dividend .word).toNat % (s.rmRead .word rm).toNat))
    refine ⟨_, exec_divRm (w := .word) h0 hq, ?_, ?_, hothers, freeArithFlags_frame s _⟩
    · exact (congrArg BitVec.toNat hax).trans (toNat_ofNat_of_le (n := 16) hq)
    · exact (congrArg BitVec.toNat hdx).trans (remainder_toNat _ _ h0)
  case idivByte =>
    obtain ⟨hal, hah, -, hothers⟩ := setQuotient_byte s.freeArithFlags
      (BitVec.ofInt 8 (s.gpr.ax.toInt.tdiv (s.rmRead .byte rm).toInt))
      (BitVec.ofInt 8 (s.gpr.ax.toInt.tmod (s.rmRead .byte rm).toInt))
    refine ⟨_, exec_idivRm (w := .byte) h0 hlow hhigh, ?_, hothers, freeArithFlags_frame s _⟩
    have hquotient := (congrArg BitVec.toInt hal).trans (toInt_ofInt_of_range (by decide) hlow hhigh)
    have hremainder := (congrArg BitVec.toInt hah).trans (remainder_toInt (by decide) _ _ h0)
    exact truncated_quotient_right h0 hquotient hremainder
  case idivWord =>
    rw [← dividend_word_toInt] at hlow hhigh ⊢
    obtain ⟨hax, hdx, hothers⟩ := setQuotient_word s.freeArithFlags
      (BitVec.ofInt 16 ((s.dividend .word).toInt.tdiv (s.rmRead .word rm).toInt))
      (BitVec.ofInt 16 ((s.dividend .word).toInt.tmod (s.rmRead .word rm).toInt))
    refine ⟨_, exec_idivRm (w := .word) h0 hlow hhigh, ?_, hothers, freeArithFlags_frame s _⟩
    have hquotient := (congrArg BitVec.toInt hax).trans (toInt_ofInt_of_range (by decide) hlow hhigh)
    have hremainder := (congrArg BitVec.toInt hdx).trans (remainder_toInt (by decide) _ _ h0)
    exact truncated_quotient_right h0 hquotient hremainder

/-! ### The divide error (R418) -/

/-- The state in which a divide error raises its interrupt: the registers of quotient and remainder and the arithmetic flags
hold any values, LOCK is over, and nothing else has changed (U2; log 25). -/
theorem divideErrorState_eq (s : State) (w : Width) :
    let q := (s.freeQuotient w).endLock
    q = { s with gpr := q.gpr, flags := q.flags, freeIx := q.freeIx, pfx := { s.pfx with lock := false } } := by
  cases w <;> rfl

theorem divideErrorState_frame (s : State) (w : Width) :
    let q := (s.freeQuotient w).endLock
    s.flags.controlsSame q.flags ∧ (∀ x, x ≠ .r000 → (w = .word → x ≠ .r010) → q.gpr.get x = s.gpr.get x) ∧
      q.frameOverlaps 0 = s.frameOverlaps 0 ∧ q.pointerInMemory 0 = s.pointerInMemory 0 := by
  cases w with
  | byte => exact ⟨⟨rfl, rfl, rfl⟩, fun x h0 _ => gpr_get_set_ne s.gpr .r000 x _ h0, rfl, rfl⟩
  | word =>
    exact ⟨⟨rfl, rfl, rfl⟩, fun x h0 h2 => (gpr_get_set_ne _ .r010 x _ (h2 rfl)).trans (gpr_get_set_ne s.gpr .r000 x _ h0),
      rfl, rfl⟩

/-- Everything an instruction that raises an interrupt answers: the sequence of its type, run in its own state or in that of
a divide error. -/
theorem exec_of_raises {s : State} {i : Instr} {t : Byte} (h : s.raises i t) :
    (i ∈ [Instr.intN t, .int3, .into] ∧ exec i s = raise t s) ∨
      ∃ w rm, i ∈ [Instr.divRm w rm, Instr.idivRm w rm] ∧ t = 0 ∧ exec i s = divideError w s := by
  rcases h with rfl | ⟨rfl, rfl⟩ | ⟨rfl, rfl, hof⟩ | ⟨rfl, w, rm, ⟨rfl, hd⟩ | ⟨rfl, hd⟩⟩
  · exact .inl ⟨by simp, rfl⟩
  · exact .inl ⟨by simp, rfl⟩
  · exact .inl ⟨by simp, if_pos hof⟩
  · exact .inr ⟨w, rm, by simp, rfl, if_pos hd⟩
  · exact .inr ⟨w, rm, by simp, rfl, if_pos hd⟩

theorem exec_of_division_raises {s : State} {i : Instr} {w : Width} {rm : RM}
    (hi : i ∈ [Instr.divRm w rm, Instr.idivRm w rm]) (h : s.raises i 0) : exec i s = divideError w s := by
  simp only [List.mem_cons, List.not_mem_nil, or_false] at hi
  rcases exec_of_raises h with ⟨hsoft, -⟩ | ⟨w', rm', hdiv, -, hexec⟩
  · rcases hi with rfl | rfl <;> simp at hsoft
  · rcases hi with rfl | rfl <;> simp at hdiv <;> exact hdiv.1 ▸ hexec

/-- Settles O33: the divide error is the plain sequence of type 0, in a state that differs from the instruction's own as
U2 lets it. -/
theorem divideErrorTraps : Obligations.DivideErrorTraps := by
  intro s w rm i hi hraises hnmi htf hoverlap hpointer
  obtain ⟨hcontrols, hgpr, hframe, hmemory⟩ := divideErrorState_frame s w
  obtain ⟨u, hraise, htook, hentered, hlatch⟩ := raise_took (t := 0) (s := (s.freeQuotient w).endLock)
    (by simpa using hnmi) (hcontrols.1.trans htf) (hframe.trans hoverlap) (hmemory.trans hpointer)
  refine ⟨u, _, (exec_of_division_raises hi hraises).trans hraise, ?_, hcontrols, hgpr, divideErrorState_eq s w, hentered,
    hlatch⟩
  simpa using htook

end Sys2Proof.Machine
end

section
/-! PROOFS of 42_logic.md (O35 to O38): AND, OR, XOR, TEST, the shifts and the rotates. -/

namespace Sys2Proof.Machine
open Sys2Proof

/-! ### AND, OR, XOR, TEST -/

/-- What a Boolean operation does to its destination and the flags, as the statement says it. -/
def State.combined (s t : State) (w : Width) (dst : RM) (v : Nat) : Prop :=
  (s.operandGap dst).wroteRm t w dst (BitVec.ofNat w.bits v) ∧ s.flags.logic t.flags w.bits v ∧
    (s.operandGap dst).straight t

/-- What TEST does. -/
def State.tested (s t : State) (w : Width) (v : Nat) : Prop := s.flags.logic t.flags w.bits v ∧ s.flagsOnly t

theorem combined_logicFlags (s : State) (w : Width) (dst : RM) {r : BitVec w.bits} {v : Nat} (h : r.toNat = v) :
    s.combined (((s.operandGap dst).logicFlags r).rmWrite w dst r) w dst v := by
  subst h
  obtain ⟨hwrote, hflags, hstraight⟩ := wroteRm_flags (s.operandGap dst)
    ((s.operandGap dst).flags.afterLogic r ((s.operandGap dst).freeFlag 4)) ((s.operandGap dst).freeIx + 1) w dst r
  refine ⟨?_, ?_, hstraight⟩
  · rw [BitVec.ofNat_toNat, BitVec.setWidth_eq]
    exact hwrote
  · have ht : (((s.operandGap dst).logicFlags r).rmWrite w dst r).flags =
        (s.operandGap dst).flags.afterLogic r ((s.operandGap dst).freeFlag 4) := hflags
    rw [ht, operandGap_flags]
    exact logic_afterLogic s.flags r _

theorem tested_logicFlags (s : State) (w : Width) {r : BitVec w.bits} {v : Nat} (h : r.toNat = v) :
    s.tested (s.logicFlags r) w v := by
  subst h
  exact ⟨logic_afterLogic s.flags r (s.freeFlag 4), flagsOnly_setFlags s (s.flags.afterLogic r (s.freeFlag 4))⟩

/-- The d form combines destination and source in that order; AND, OR and XOR do not tell the order. -/
theorem combined_rmReg {op : AluOp} {f : (n : Nat) → BitVec n → BitVec n → BitVec n}
    (hop : ∀ n a b (s : State), op n a b s = (f n a b, s.logicFlags (f n a b))) (hcomm : ∀ n a b, f n a b = f n b a)
    (s : State) (d : Bool) (w : Width) (rm : RM) (r : RegCode) {v : Nat}
    (h : (f w.bits (s.rmRead w rm) (s.gpr.getW w r)).toNat = v) :
    s.combined (aluOnRmReg op d w rm r s) w (destOf d rm r) v := by
  cases d with
  | false =>
    simp only [aluOnRmReg, hop, destOf, if_false, Bool.false_eq_true]
    exact combined_logicFlags s w rm h
  | true =>
    rw [hcomm] at h
    simp only [aluOnRmReg, hop, destOf, if_true]
    exact combined_logicFlags s w (.reg r) h

/-- Settles O35: each form writes its bitwise result with `logic_flags`, or these flags alone. -/
theorem booleanForms : Obligations.BooleanForms := by
  refine fun s => ⟨fun d w rm r => ⟨?rmReg, _, rfl, tested_logicFlags s w (BitVec.toNat_and ..)⟩,
    fun rm imm => ⟨?rmImm, _, rfl, tested_logicFlags s imm.width (BitVec.toNat_and ..)⟩,
    fun imm => ⟨?accImm, _, rfl, tested_logicFlags s imm.width (BitVec.toNat_and ..)⟩⟩
  all_goals
    simp only [List.forall_mem_cons]
    refine ⟨⟨_, rfl, ?_⟩, ⟨_, rfl, ?_⟩, ⟨_, rfl, ?_⟩, fun _ h => absurd h List.not_mem_nil⟩
  case rmReg.refine_1 =>
    exact combined_rmReg (fun _ _ _ _ => rfl) (fun _ => BitVec.and_comm) s d w rm r (BitVec.toNat_and ..)
  case rmReg.refine_2 =>
    exact combined_rmReg (fun _ _ _ _ => rfl) (fun _ => BitVec.or_comm) s d w rm r (BitVec.toNat_or ..)
  case rmReg.refine_3 =>
    exact combined_rmReg (fun _ _ _ _ => rfl) (fun _ => BitVec.xor_comm) s d w rm r (BitVec.toNat_xor ..)
  case rmImm.refine_1 => exact combined_logicFlags s imm.width rm (BitVec.toNat_and ..)
  case rmImm.refine_2 => exact combined_logicFlags s imm.width rm (BitVec.toNat_or ..)
  case rmImm.refine_3 => exact combined_logicFlags s imm.width rm (BitVec.toNat_xor ..)
  case accImm.refine_1 => exact combined_logicFlags s imm.width (.reg .r000) (BitVec.toNat_and ..)
  case accImm.refine_2 => exact combined_logicFlags s imm.width (.reg .r000) (BitVec.toNat_or ..)
  case accImm.refine_3 => exact combined_logicFlags s imm.width (.reg .r000) (BitVec.toNat_xor ..)

/-! ### The count (R251) -/

theorem shiftCount_eq (s : State) (byCl : Bool) :
    s.shiftCount byCl = if byCl then s.gpr.cx.toNat % 256 else 1 :=
  congrArg (fun n => if byCl then n else 1) (BitVec.extractLsb'_toNat 0 8 s.gpr.cx)

/-! ### Shifts by a count other than 0 -/

/-- All a shift by `k` does, from what repeating its step leaves (R251). -/
theorem shiftRm_effect {s : State} {byCl : Bool} {w : Width} {rm : RM} {step : ShiftStep} {ofRule : ShiftOf} {k : Nat}
    {v : BitVec w.bits} {c : Bool} {carry overflow : Prop} (hcount : s.shiftCount byCl = k) (hk : k ≠ 0)
    (hstep : shiftBy step w.bits k (s.rmRead w rm) s.flags.CF = (v, c)) (hcarry : c = true ↔ carry)
    (hoverflow : k = 1 → (ofRule w.bits (s.rmRead w rm) v c = true ↔ overflow)) :
    let t := shiftRm step ofRule byCl w rm s
    (s.operandGap rm).wroteRm t w rm v ∧ s.flags.shifted t.flags w.bits v.toNat k carry overflow ∧
      (s.operandGap rm).straight t := by
  intro t
  have ht : t = ((s.operandGap rm).shiftFlags ofRule k w.bits (s.rmRead w rm) v c).rmWrite w rm v := by
    simp only [t, shiftRm, hcount, hstep, if_neg hk]
  obtain ⟨hwrote, hflags, hstraight⟩ := wroteRm_flags (s.operandGap rm)
    ((s.operandGap rm).shiftFlags ofRule k w.bits (s.rmRead w rm) v c).flags ((s.operandGap rm).freeIx + 1) w rm v
  have htflags : t.flags = ((s.operandGap rm).shiftFlags ofRule k w.bits (s.rmRead w rm) v c).flags := ht ▸ hflags
  refine ⟨ht ▸ hwrote, ?_, ht ▸ hstraight⟩
  rw [htflags]
  refine ⟨szpOf_setSzp (s.operandGap rm).flags v, hcarry, fun h1 => ?_, ?_⟩
  · have hof : (s.operandGap rm).shiftOverflow ofRule k w.bits (s.rmRead w rm) v c =
        ofRule w.bits (s.rmRead w rm) v c := if_pos h1
    exact (Bool.eq_iff_iff.mp hof).trans (hoverflow h1)
  · rw [← operandGap_flags s rm]
    exact ⟨rfl, rfl, rfl⟩

section
variable (w : Width) (a : BitVec w.bits) (k : Nat)

theorem shiftLeft_eq_ofNat : a <<< k = BitVec.ofNat w.bits (a.toNat * 2 ^ k) :=
  BitVec.eq_of_toNat_eq (by rw [BitVec.toNat_shiftLeft, BitVec.toNat_ofNat, Nat.shiftLeft_eq])

theorem shiftRight_eq_ofNat : a >>> k = BitVec.ofNat w.bits (a.toNat / 2 ^ k) := by
  apply BitVec.eq_of_toNat_eq
  rw [BitVec.toNat_ushiftRight, BitVec.toNat_ofNat, Nat.shiftRight_eq_div_pow,
    Nat.mod_eq_of_lt ((Nat.div_le_self _ _).trans_lt a.isLt)]

theorem sshiftRight_eq_ofInt : a.sshiftRight k = BitVec.ofInt w.bits (a.toInt / 2 ^ k) := by
  rw [BitVec.sshiftRight, Int.shiftRight_eq_div_pow]
  norm_cast

/-- SHL by 1 overflows where the double does not fit (R252). -/
theorem leftOf_shl_iff : leftOf w.bits a (a <<< 1) a.msb = true ↔ tooBig w.bits (2 * a.toInt) := by
  have ha := a.isLt
  simp only [leftOf, bne_iff_ne, ne_eq, BitVec.msb_eq_decide, decide_eq_decide, BitVec.toNat_shiftLeft, Nat.shiftLeft_eq,
    tooBig, BitVec.toInt_eq_toNat_cond]
  cases w <;> simp only [Width.bits] at * <;> omega

theorem getLsbD_zero_iff_toInt_odd : a.getLsbD 0 = true ↔ a.toInt % 2 = 1 := by
  have hbit : a.getLsbD 0 = true ↔ a.toNat % 2 = 1 := by
    rw [BitVec.getLsbD, Nat.testBit_zero, decide_eq_true_eq]
  rw [hbit, BitVec.toInt_eq_toNat_cond]
  cases w <;> simp only [Width.bits] at * <;> omega

end

/-- Settles O36: repeating the one-bit step has a closed form, and CF is the last bit it moved out. -/
theorem shiftForms : Obligations.ShiftForms := by
  intro s byCl w rm k a done hk
  have hcount : s.shiftCount byCl = k := shiftCount_eq s byCl
  refine ⟨⟨_, rfl, ?shl⟩, ⟨_, rfl, ?shr⟩, ⟨_, rfl, ?sar⟩⟩
  case shl =>
    have hstep := shiftBy_shl k a s.flags.CF
    rw [if_neg hk, shiftLeft_eq_ofNat w a k] at hstep
    refine shiftRm_effect hcount hk hstep ?_ fun h1 => ?_
    · rw [Bool.and_eq_true, decide_eq_true_eq]
      rfl
    · rw [h1, ← shiftLeft_eq_ofNat]
      have hmsb : (decide (1 ≤ w.bits) && a.getLsbD (w.bits - 1)) = a.msb := by
        rw [BitVec.msb_eq_getLsbD_last]
        cases w <;> rfl
      rw [hmsb]
      exact leftOf_shl_iff w a
  case shr =>
    have hstep := shiftBy_shr k a s.flags.CF
    rw [if_neg hk, shiftRight_eq_ofNat w a k] at hstep
    exact shiftRm_effect hcount hk hstep Iff.rfl fun _ => msb_iff a
  case sar =>
    have hstep := shiftBy_sar k a s.flags.CF
    rw [if_neg hk, sshiftRight_eq_ofInt w a k] at hstep
    refine shiftRm_effect hcount hk hstep ?_ fun _ => ⟨fun h => absurd h Bool.false_ne_true, False.elim⟩
    rw [getLsbD_zero_iff_toInt_odd, BitVec.toInt_sshiftRight, Int.shiftRight_eq_div_pow]
    norm_cast

/-! ### Rotates by a count other than 0 -/

/-- All a rotate by `k` does, from what repeating its step leaves (R251). -/
theorem rotateRm_effect {s : State} {byCl : Bool} {w : Width} {rm : RM} {step : ShiftStep} {ofRule : ShiftOf} {k : Nat}
    {v : BitVec w.bits} {c overflow : Bool} (hcount : s.shiftCount byCl = k) (hk : k ≠ 0)
    (hstep : shiftBy step w.bits k (s.rmRead w rm) s.flags.CF = (v, c))
    (hoverflow : ofRule w.bits (s.rmRead w rm) v c = overflow) :
    let t := rotateRm step ofRule byCl w rm s
    (s.operandGap rm).wroteRm t w rm v ∧ s.flags.rotated t.flags k c overflow ∧ (s.operandGap rm).straight t := by
  intro t
  have ht : t = ((s.operandGap rm).rotateFlags ofRule k w.bits (s.rmRead w rm) v c).rmWrite w rm v := by
    simp only [t, rotateRm, hcount, hstep, if_neg hk]
  obtain ⟨hwrote, hflags, hstraight⟩ := wroteRm_flags (s.operandGap rm)
    ((s.operandGap rm).rotateFlags ofRule k w.bits (s.rmRead w rm) v c).flags ((s.operandGap rm).freeIx + 1) w rm v
  have htflags : t.flags = ((s.operandGap rm).rotateFlags ofRule k w.bits (s.rmRead w rm) v c).flags := ht ▸ hflags
  refine ⟨ht ▸ hwrote, ?_, ht ▸ hstraight⟩
  rw [htflags, ← operandGap_flags s rm]
  exact ⟨rfl, fun h1 => (if_pos h1).trans hoverflow, rfl, rfl, rfl, rfl, rfl, rfl, rfl⟩

/-- Settles O37: ROL and ROR rotate the operand, RCL and RCR the operand with CF on top of it. -/
theorem rotateForms : Obligations.RotateForms := by
  intro s byCl w rm k a left right hk
  have hcount : s.shiftCount byCl = k := shiftCount_eq s byCl
  have hbits : 1 < w.bits := by cases w <;> decide
  refine ⟨⟨_, rfl, ?rol⟩, ⟨_, rfl, ?ror⟩, ⟨_, _, _, rfl, ?rcl, shiftBy_rcl (Nat.zero_lt_of_lt hbits) k a s.flags.CF⟩,
    ⟨_, _, _, rfl, ?rcr, shiftBy_rcr (Nat.zero_lt_of_lt hbits) k a s.flags.CF⟩⟩
  case rol =>
    have hstep := shiftBy_rol hbits k a s.flags.CF
    rw [if_neg hk] at hstep
    exact rotateRm_effect hcount hk hstep rfl
  case ror =>
    have hstep := shiftBy_ror hbits k a s.flags.CF
    rw [if_neg hk] at hstep
    exact rotateRm_effect hcount hk hstep rfl
  case rcl | rcr => exact rotateRm_effect hcount hk rfl rfl

/-! ### A count of 0 (U13) -/

/-- A byte of RAM written with the value it has. -/
theorem busWrite_same {s : State} {a : PAddr} {b : Byte} (h : s.kindOf a = .ram → memRead s.mem a.toNat = b) :
    s.memSame (s.busWrite a b) ∧ (s.busWrite a b).stale = s.stale := by
  refine ⟨fun x => ?_, ?_⟩
  · rw [memRead_busWrite]
    split
    · next hx => rw [hx.1, h hx.2]
    · rfl
  · rw [stale_busWrite, if_neg]
    exact fun hx => hx.2.2 (h hx.1)

/-- The bus reads memory where RAM stands. -/
theorem memRead_of_ram {s : State} {a : PAddr} (h : s.kindOf a = .ram) : memRead s.mem a.toNat = s.busRead a := by
  unfold State.busRead
  rw [h]

/-- The value read, written back: memory and the queue's record are as before. -/
theorem writeW_readW_same (s : State) (w : Width) (g o : Word) :
    s.memSame (s.writeW w g o (s.readW w g o)) ∧ (s.writeW w g o (s.readW w g o)).stale = s.stale := by
  cases w with
  | byte => exact busWrite_same memRead_of_ram
  | word =>
    have hlow : lowByte (s.readW .word g o) = s.busRead (phys g o) := lowByte_wordOf _ _
    have hhigh : highByte (s.readW .word g o) = s.busRead (phys g (o + 1)) := highByte_wordOf _ _
    obtain ⟨hmem1, hstale1⟩ := busWrite_same (s := s) (a := phys g o) (b := lowByte (s.readW .word g o))
      (fun h => (memRead_of_ram h).trans hlow.symm)
    obtain ⟨hmem2, hstale2⟩ := busWrite_same (s := s.busWrite (phys g o) (lowByte (s.readW .word g o)))
      (a := phys g (o + 1)) (b := highByte (s.readW .word g o))
      (fun h => (hmem1 _).trans ((memRead_of_ram (busWrite_kindOf s _ _ _ ▸ h)).trans hhigh.symm))
    exact ⟨fun x => (hmem2 x).trans (hmem1 x), hstale2.trans hstale1⟩

theorem busWrite_busLog_of_ram {s : State} (h : s.plat.memMap = []) (a : PAddr) (b : Byte) :
    (s.busWrite a b).busLog = s.busLog := by
  have hram : s.kindOf a = .ram := by simp [State.kindOf, h, kindAt]
  unfold State.busWrite
  rw [hram]
  rfl

theorem writeW_busLog_of_ram {s : State} (h : s.plat.memMap = []) (w : Width) (g o : Word) (v : BitVec w.bits) :
    (s.writeW w g o v).busLog = s.busLog := by
  cases w with
  | byte => exact busWrite_busLog_of_ram h _ _
  | word => exact (busWrite_busLog_of_ram (by simpa using h) _ _).trans (busWrite_busLog_of_ram h _ _)

/-- All a shift by 0 does (R251, U13): nothing, or the unchanged value is written back. -/
theorem shiftByZero_effect (s : State) (w : Width) (rm : RM) :
    let t := s.shiftByZero w rm
    t.gpr = s.gpr ∧ t.flags = s.flags ∧
      ((s.noStore t ∧ s.straight t) ∨
        ((s.operandGap rm).wroteRm t w rm (s.rmRead w rm) ∧ (s.operandGap rm).straight t)) ∧
      (s.busQueue = [] → s.memSame t ∧ t.stale = s.stale ∧ s.straight t ∧ (s.plat.memMap = [] → t.busLog = s.busLog)) := by
  have hnothing (t : State) (h : t = s ∨ t = s.tick) : t.gpr = s.gpr ∧ t.flags = s.flags ∧
      (s.noStore t ∧ s.straight t) ∧ s.memSame t ∧ t.stale = s.stale ∧ s.straight t ∧ t.busLog = s.busLog := by
    rcases h with rfl | rfl <;>
      exact ⟨rfl, rfl, ⟨noStore_refl _, straight_refl _⟩, fun _ => rfl, rfl, straight_refl _, rfl⟩
  cases rm with
  | reg r =>
    obtain ⟨hgpr, hflags, hleft, hmem, hstale, hstraight, hlog⟩ := hnothing s (.inl rfl)
    exact ⟨hgpr, hflags, .inl hleft, fun _ => ⟨hmem, hstale, hstraight, fun _ => hlog⟩⟩
  | mem m =>
    unfold State.shiftByZero
    dsimp only
    split
    · obtain ⟨hgpr, hstored⟩ := wroteRm_rmWrite s.yieldBus w (.mem m) (s.rmRead w (.mem m))
      obtain ⟨hflags, hstraight⟩ := straight_rmWrite s.yieldBus w (.mem m) (s.rmRead w (.mem m))
      refine ⟨hgpr.trans (yieldBus_gpr s), hflags.trans (yieldBus_flags s), .inr ⟨⟨hgpr, hstored⟩, hstraight⟩,
        fun hq => ?_⟩
      rw [yieldBus_quiet hq] at hstraight ⊢
      obtain ⟨hmem, hstale⟩ := writeW_readW_same s w (s.segEff m) (s.ea m)
      exact ⟨hmem, hstale, hstraight, fun hmap => writeW_busLog_of_ram hmap w _ _ _⟩
    · obtain ⟨hgpr, hflags, hleft, hmem, hstale, hstraight, hlog⟩ := hnothing s.tick (.inr rfl)
      exact ⟨hgpr, hflags, .inl hleft, fun _ => ⟨hmem, hstale, hstraight, fun _ => hlog⟩⟩

theorem shiftRm_zero {s : State} (h : s.shiftCount true = 0) (step : ShiftStep) (ofRule : ShiftOf) (w : Width) (rm : RM) :
    shiftRm step ofRule true w rm s = s.shiftByZero w rm := if_pos h

theorem rotateRm_zero {s : State} (h : s.shiftCount true = 0) (step : ShiftStep) (ofRule : ShiftOf) (w : Width) (rm : RM) :
    rotateRm step ofRule true w rm s = s.shiftByZero w rm := if_pos h

/-- Settles O38: with CL = 0 the seven instructions are one and the same. -/
theorem shiftByZero : Obligations.ShiftByZero := by
  intro s w rm hcl
  have hcount : s.shiftCount true = 0 := (shiftCount_eq s true).trans hcl
  have hrotate (step : ShiftStep) (ofRule : ShiftOf) :
      (.next (rotateRm step ofRule true w rm s) : Result) = .next (s.shiftByZero w rm) := by
    rw [rotateRm_zero hcount]
  have hshift (step : ShiftStep) (ofRule : ShiftOf) :
      (.next (shiftRm step ofRule true w rm s) : Result) = .next (s.shiftByZero w rm) := by
    rw [shiftRm_zero hcount]
  simp only [List.forall_mem_cons]
  refine ⟨?rol, ?ror, ?rcl, ?rcr, ?shl, ?shr, ?sar, fun _ h => absurd h List.not_mem_nil⟩
  case rol | ror | rcl | rcr => exact ⟨_, hrotate _ _, shiftByZero_effect s w rm⟩
  case shl | shr | sar => exact ⟨_, hshift _ _, shiftByZero_effect s w rm⟩

end Sys2Proof.Machine
end

section
/-! PROOFS of 43_string.md (O39 to O41): the string instructions alone, and one turn under a repeat prefix. -/

namespace Sys2Proof.Machine
open Sys2Proof

/-! ### The step of an index register (R291) -/

/-- An index register goes up or down by the size of an element, modulo 2^16. -/
theorem indexStep_eq (s : State) (w : Width) (x : Word) : s.indexStep w x =
    BitVec.ofInt 16 (x.toNat + if s.flags.DF then -(w.bits / 8 : Int) else w.bits / 8) := by
  have hx : x.toNat < 65536 := x.isLt
  apply BitVec.eq_of_toNat_eq
  cases w with
  | byte =>
    cases hdf : s.flags.DF <;>
      simp only [State.indexStep, hdf, if_true, Bool.false_eq_true, if_false, BitVec.toNat_ofInt, BitVec.toNat_sub,
        BitVec.toNat_add, BitVec.ofNat_eq_ofNat, BitVec.toNat_ofNat, Width.bits] <;>
      omega
  | word =>
    cases hdf : s.flags.DF <;>
      simp only [State.indexStep, hdf, if_true, Bool.false_eq_true, if_false, BitVec.toNat_ofInt, BitVec.toNat_sub,
        BitVec.toNat_add, BitVec.ofNat_eq_ofNat, BitVec.toNat_ofNat, Width.bits] <;>
      omega

/-- The direction is DF's alone. -/
theorem indexStep_congr {s t : State} (h : t.flags.DF = s.flags.DF) (w : Width) (x : Word) :
    t.indexStep w x = s.indexStep w x := by
  cases w <;> simp only [State.indexStep, h]

/-! ### One element without a repeat prefix -/

theorem repeated_alone {s : State} (h : s.pfx.rep = none) (i : Instr) (compares : Bool) (element : State → State) :
    repeated i compares element s = .next { element s with running := none } := by
  unfold repeated
  rw [h]

/-- Both index registers stepped, after an operation that leaves registers and DF alone. -/
theorem stepSi_stepDi_gpr {s t : State} (hgpr : t.gpr = s.gpr) (hdf : t.flags.DF = s.flags.DF) (w : Width) :
    ((t.stepSi w).stepDi w).gpr = { s.gpr with si := s.indexStep w s.gpr.si, di := s.indexStep w s.gpr.di } := by
  have hsi : t.indexStep w t.gpr.si = s.indexStep w s.gpr.si := hgpr ▸ indexStep_congr hdf w _
  have hdi : (t.stepSi w).indexStep w (t.stepSi w).gpr.di = s.indexStep w s.gpr.di := hgpr ▸ indexStep_congr hdf w _
  rw [stepDi_gpr, hdi, stepSi_gpr, hsi, hgpr]
  rfl

theorem movsElement_gpr (w : Width) (s : State) :
    (movsElement w s).gpr = { s.gpr with si := s.indexStep w s.gpr.si, di := s.indexStep w s.gpr.di } :=
  stepSi_stepDi_gpr (by simp) (by simp) w

theorem movsElement_frame (w : Width) (s : State) :
    (movsElement w s).flags = s.flags ∧ (movsElement w s).sregs = s.sregs ∧ (movsElement w s).ip = s.ip ∧
      s.yieldBus.restSame (movsElement w s) := by
  simp [movsElement, State.restSame]

theorem stosElement_gpr (w : Width) (s : State) :
    (stosElement w s).gpr = { s.gpr with di := s.indexStep w s.gpr.di } := by
  simp only [stosElement, stepDi_gpr, writeW_gpr]
  rw [indexStep_congr (s := s) (by simp)]
  rfl

theorem stosElement_frame (w : Width) (s : State) :
    (stosElement w s).flags = s.flags ∧ (stosElement w s).sregs = s.sregs ∧ (stosElement w s).ip = s.ip ∧
      s.restSame (stosElement w s) := by
  simp [stosElement, State.restSame]

/-- The end of a string instruction leaves everything else as the element has left it. -/
theorem restSame_not_running {g t : State} (h : g.restSame t) :
    { g with running := none }.restSame { t with running := none } := by
  obtain ⟨hnmi, hdelay, hhalted, hwaiting, hpfx, -, hrest⟩ := h
  exact ⟨hnmi, hdelay, hhalted, hwaiting, hpfx, rfl, hrest⟩

theorem lodsElement_others (w : Width) (s : State) :
    ∀ x, x ≠ .r000 → x ≠ .r110 → (lodsElement w s).gpr.get x = s.gpr.get x := by
  intro x h0 h6
  refine (gpr_get_set_ne _ .r110 x _ h6).trans ?_
  cases w with
  | byte => cases x <;> first | rfl | exact absurd rfl h0
  | word => exact gpr_get_set_ne s.gpr .r000 x _ h0

/-- Settles O39: one element is one write, of memory or of the accumulator, with the index registers stepped. -/
theorem stringMoves : Obligations.StringMoves := by
  intro s w hrep n next src rest
  have hnext (x : Word) : s.indexStep w x = next x := indexStep_eq s w x
  refine ⟨⟨_, repeated_alone hrep (.movs w) false _, ?movsStored, ?movsGpr, ?movsRest⟩,
    ⟨_, repeated_alone hrep (.lods w) false _, noStore_refl s, ?acc, ?ah, ?si, lodsElement_others w s,
      rfl, rfl, rfl, restSame_not_running (restSame_refl s)⟩,
    ⟨_, repeated_alone hrep (.stos w) false _, stored_writeW s w _ _ _, ?stosGpr, ?stosRest⟩⟩
  case movsStored => exact stored_writeW s.yieldBus w _ _ _
  case movsGpr => rw [← hnext, ← hnext]; exact movsElement_gpr w s
  case movsRest =>
    obtain ⟨hflags, hsregs, hip, hrest⟩ := movsElement_frame w s
    exact ⟨hflags, hsregs, hip, restSame_not_running hrest⟩
  case acc => cases w <;> exact gpr_getW_setW s.gpr _ .r000 src
  case ah =>
    cases w with
    | byte => exact gpr_getByte_setByte_ne s.gpr .r000 .r100 src (by decide)
    | word => rfl
  case si =>
    rw [← hnext]
    cases w with
    | byte => exact congrArg (s.indexStep .byte) (gpr_setByte_high s.gpr .r000 src).2.2.1
    | word => rfl
  case stosGpr => rw [← hnext]; exact stosElement_gpr w s
  case stosRest =>
    obtain ⟨hflags, hsregs, hip, hrest⟩ := stosElement_frame w s
    exact ⟨hflags, hsregs, hip, restSame_not_running hrest⟩

/-! ### Compares -/

/-- What stands in RAM or ROM reads the same in every draw (R77). -/
theorem busRead_tick {s : State} {a : PAddr} (h : s.kindOf a = .ram ∨ s.kindOf a = .rom) : s.tick.busRead a = s.busRead a := by
  have hkind : s.tick.kindOf a = s.kindOf a := rfl
  unfold State.busRead
  rw [hkind]
  rcases h with h | h <;> rw [h] <;> rfl

theorem readW_tick {s : State} {w : Width} {g o : Word} (h : s.inMemory w g o = true) :
    s.tick.readW w g o = s.readW w g o := by
  have hkind := List.all_eq_true.mp h
  simp only [Bool.or_eq_true, beq_iff_eq] at hkind
  cases w with
  | byte => exact busRead_tick (hkind (phys g o, 0) (List.mem_singleton.mpr rfl))
  | word =>
    have hlow : s.tick.busRead (phys g o) = s.busRead (phys g o) := busRead_tick (hkind (phys g o, lowByte 0) (by
      simp [operandBytes, wordBytes]))
    have hhigh : s.tick.busRead (phys g (o + 1)) = s.busRead (phys g (o + 1)) :=
      busRead_tick (hkind (phys g (o + 1), highByte 0) (by simp [operandBytes, wordBytes]))
    show wordOf _ _ = wordOf _ _
    rw [hlow, hhigh]

theorem inMemory_yieldBus (s : State) (w : Width) (g o : Word) : s.yieldBus.inMemory w g o = s.inMemory w g o := by
  simp [State.inMemory, State.kindOf]

/-- The destination element of CMPS, read after the gap, in a draw of its own (log 4). -/
theorem cmps_destElement {s : State} {w : Width} (h : s.inMemory w s.sregs.es s.gpr.di = true) :
    s.yieldBus.tick.destElement w = s.yieldBus.readW w s.sregs.es s.gpr.di := by
  rw [State.destElement, tick_sregs, tick_gpr, yieldBus_sregs, yieldBus_gpr]
  exact readW_tick (by rwa [inMemory_yieldBus])

theorem cmpsElement_gpr (w : Width) (s : State) :
    (cmpsElement w s).gpr = { s.gpr with si := s.indexStep w s.gpr.si, di := s.indexStep w s.gpr.di } :=
  stepSi_stepDi_gpr (yieldBus_gpr s) (congrArg Flags.DF (yieldBus_flags s)) w

theorem cmpsElement_flags (w : Width) (s : State) : (cmpsElement w s).flags =
    s.flags.afterSub (s.sourceElement w) (s.yieldBus.tick.destElement w) false :=
  congrArg (fun f : Flags => f.afterSub (s.sourceElement w) (s.yieldBus.tick.destElement w) false) (yieldBus_flags s)

theorem cmpsElement_frame (w : Width) (s : State) :
    s.yieldBus.noStore (cmpsElement w s) ∧ (cmpsElement w s).sregs = s.sregs ∧ (cmpsElement w s).ip = s.ip ∧
      s.yieldBus.restSame (cmpsElement w s) :=
  ⟨noStore_refl s.yieldBus, yieldBus_sregs s, yieldBus_ip s, restSame_refl s.yieldBus⟩

/-- Settles O40: the flags are those of the subtraction, and the index registers step by the DF it leaves alone. -/
theorem stringCompares : Obligations.StringCompares := by
  intro s w hrep n next rest
  have hnext (x : Word) : s.indexStep w x = next x := indexStep_eq s w x
  refine ⟨⟨_, s.yieldBus.tick.destElement w, repeated_alone hrep (.cmps w) true _, ?cmpsFlags, cmps_destElement, ?cmpsGpr,
      ?cmpsRest⟩,
    ⟨_, repeated_alone hrep (.scas w) true _, difference_afterSub s.flags w _ _ false, ?scasGpr, noStore_refl s, rfl, rfl,
      restSame_not_running (restSame_refl s)⟩⟩
  case cmpsFlags =>
    show s.flags.difference (cmpsElement w s).flags _ _ false
    rw [cmpsElement_flags]
    exact difference_afterSub s.flags w _ _ false
  case cmpsGpr => rw [← hnext, ← hnext]; exact cmpsElement_gpr w s
  case cmpsRest =>
    obtain ⟨hstore, hsregs, hip, hrest⟩ := cmpsElement_frame w s
    exact ⟨hstore, hsregs, hip, restSame_not_running hrest⟩
  case scasGpr =>
    rw [← hnext]
    exact congrArg (fun x => { s.gpr with di := x }) (indexStep_congr rfl w s.gpr.di)

/-! ### An element looks at the repeat prefix nowhere -/

/-- The state with another repeat prefix in force. -/
def State.withRep (s : State) (r : Option Bool) : State := { s with pfx := { s.pfx with rep := r } }

section
variable (s : State) (r : Option Bool)

theorem masterWrite_withRep (a : PAddr) (b : Byte) : (s.withRep r).masterWrite a b = (s.masterWrite a b).withRep r := by
  have hkind : (s.withRep r).kindOf a = s.kindOf a := rfl
  unfold State.masterWrite
  rw [hkind]
  cases s.kindOf a <;> rfl

theorem masterWrites_withRep (l : List (PAddr × Byte)) : (s.withRep r).masterWrites l = (s.masterWrites l).withRep r := by
  induction l generalizing s with
  | nil => rfl
  | cons c rest ih => rw [State.masterWrites, masterWrite_withRep, ih]; rfl

/-- Which masters are held off depends on LOCK, not on REP (R82). -/
theorem yieldBus_withRep : (s.withRep r).yieldBus = s.yieldBus.withRep r := by
  have hlocked : (s.withRep r).busLocked = s.busLocked := rfl
  have hqueue : (s.withRep r).busQueue = s.busQueue := rfl
  unfold State.yieldBus
  rw [hlocked, hqueue]
  split
  · rfl
  · cases s.busQueue with
    | nil => rfl
    | cons now later => dsimp only; rw [masterWrites_withRep]; rfl

theorem busWrite_withRep (a : PAddr) (b : Byte) : (s.withRep r).busWrite a b = (s.busWrite a b).withRep r := by
  have hkind : (s.withRep r).kindOf a = s.kindOf a := rfl
  unfold State.busWrite
  rw [hkind]
  cases s.kindOf a <;> rfl

theorem writeW_withRep (w : Width) (g o : Word) (v : BitVec w.bits) :
    (s.withRep r).writeW w g o v = (s.writeW w g o v).withRep r := by
  cases w with
  | byte => exact busWrite_withRep s r _ _
  | word =>
    show ((s.withRep r).busWrite _ _).busWrite _ _ = _
    rw [busWrite_withRep, busWrite_withRep]
    rfl

theorem movsElement_withRep (w : Width) : movsElement w (s.withRep r) = (movsElement w s).withRep r := by
  have hwrite : (s.withRep r).yieldBus.writeW w (s.withRep r).sregs.es (s.withRep r).gpr.di
      ((s.withRep r).sourceElement w) = (s.yieldBus.writeW w s.sregs.es s.gpr.di (s.sourceElement w)).withRep r := by
    rw [yieldBus_withRep, writeW_withRep]
    cases w <;> rfl
  rw [movsElement, hwrite]
  cases w <;> rfl

theorem cmpsElement_withRep (w : Width) : cmpsElement w (s.withRep r) = (cmpsElement w s).withRep r := by
  rw [cmpsElement, yieldBus_withRep]
  cases w <;> rfl

theorem scasElement_withRep (w : Width) : scasElement w (s.withRep r) = (scasElement w s).withRep r := by
  cases w <;> rfl

theorem lodsElement_withRep (w : Width) : lodsElement w (s.withRep r) = (lodsElement w s).withRep r := by
  cases w <;> rfl

theorem stosElement_withRep (w : Width) : stosElement w (s.withRep r) = (stosElement w s).withRep r := by
  have hwrite : (s.withRep r).writeW w (s.withRep r).sregs.es (s.withRep r).gpr.di ((s.withRep r).gpr.getW w .r000) =
      (s.writeW w s.sregs.es s.gpr.di (s.gpr.getW w .r000)).withRep r := writeW_withRep s r w _ _ _
  rw [stosElement, hwrite]
  cases w <;> rfl

end

/-! ### One turn under a repeat prefix (R292) -/

theorem repeated_over {s : State} {z : Bool} (hrep : s.pfx.rep = some z) (hcx : s.gpr.cx = 0) (i : Instr) (compares : Bool)
    (element : State → State) : repeated i compares element s = .next { s with running := none } := by
  unfold repeated
  rw [hrep]
  exact if_pos hcx

theorem repeated_turn {s : State} {z : Bool} (hrep : s.pfx.rep = some z) (hcx : s.gpr.cx ≠ 0) (i : Instr) (compares : Bool)
    (element : State → State) : repeated i compares element s = .next { (element s).setReg .r001 (s.gpr.cx - 1) with
      running := if s.gpr.cx = 1 ∨ (compares = true ∧ (element s).flags.ZF ≠ z) then none else some i } := by
  have hlast : s.gpr.cx - 1 = 0 ↔ s.gpr.cx = 1 := by
    constructor <;> intro h <;> bv_omega
  have hover : (s.gpr.cx - 1 = 0 || (compares && (element s).flags.ZF != z)) = true ↔
      s.gpr.cx = 1 ∨ (compares = true ∧ (element s).flags.ZF ≠ z) := by
    rw [Bool.or_eq_true, decide_eq_true_eq, hlast, Bool.and_eq_true, bne_iff_ne]
  unfold repeated
  rw [hrep]
  dsimp only
  rw [if_neg hcx]
  by_cases h : s.gpr.cx = 1 ∨ (compares = true ∧ (element s).flags.ZF ≠ z)
  · rw [if_pos h]
    exact if_pos (hover.mpr h)
  · rw [if_neg h]
    exact if_neg (mt hover.mp h)

/-- A turn, said of the primitive alone, for an element that neither looks at REP nor changes the prefixes. -/
theorem repeatTurn_of_element {i : Instr} {element : State → State}
    (hexec : ∀ s, exec i s = repeated i (Instr.comparesZf i) element s)
    (hlooks : ∀ s r, element (s.withRep r) = (element s).withRep r) (hkeeps : ∀ s : State, (element s).pfx = s.pfx)
    {s : State} {z : Bool} (hrep : s.pfx.rep = some z) :
    (s.gpr.cx = 0 → exec i s = .next { s with running := none }) ∧
    (s.gpr.cx ≠ 0 → ∃ u, exec i { s with pfx := { s.pfx with rep := none } } = .next u ∧
      exec i s = .next { u with
        pfx := s.pfx
        gpr := { u.gpr with cx := s.gpr.cx - 1 }
        running := if s.gpr.cx = 1 ∨ (Instr.comparesZf i = true ∧ u.flags.ZF ≠ z) then none else some i }) := by
  refine ⟨fun hcx => (hexec s).trans (repeated_over hrep hcx _ _ _), fun hcx => ⟨_, (hexec _).trans
    (repeated_alone (s := s.withRep none) rfl _ _ _), (hexec s).trans ((repeated_turn hrep hcx _ _ _).trans ?_)⟩⟩
  have hbare : element (s.withRep none) = (element s).withRep none := hlooks s none
  rw [hbare, ← hkeeps s]
  rfl

/-- Settles O41: each of the five is one element, repeated. -/
theorem repeatTurn : Obligations.RepeatTurn := by
  intro s i z hstring hrep
  cases i with
  | movs w =>
    exact repeatTurn_of_element (i := .movs w) (fun _ => rfl) (fun s r => movsElement_withRep s r w)
      (fun s => (keeps_movsElement w s).pfx) hrep
  | cmps w =>
    exact repeatTurn_of_element (i := .cmps w) (fun _ => rfl) (fun s r => cmpsElement_withRep s r w)
      (fun s => (keeps_cmpsElement w s).pfx) hrep
  | scas w =>
    exact repeatTurn_of_element (i := .scas w) (fun _ => rfl) (fun s r => scasElement_withRep s r w)
      (fun s => (keeps_scasElement w s).pfx) hrep
  | lods w =>
    exact repeatTurn_of_element (i := .lods w) (fun _ => rfl) (fun s r => lodsElement_withRep s r w)
      (fun s => (keeps_lodsElement w s).pfx) hrep
  | stos w =>
    exact repeatTurn_of_element (i := .stos w) (fun _ => rfl) (fun s r => stosElement_withRep s r w)
      (fun s => (keeps_stosElement w s).pfx) hrep
  | _ => exact absurd hstring Bool.false_ne_true

end Sys2Proof.Machine
end

section
/-! PROOFS of 44_control_transfer.md and 60_exceptions.md (O48 to O52): the software interrupts, IRET, what is recognised at
the end of an instruction, and what is chained to it. -/

namespace Sys2Proof.Machine
open Sys2Proof

/-! ### Software interrupts -/

theorem raise_of_overlap {s : State} {t : Byte} (h : s.frameOverlaps t = true) :
    raise t s = .refused .frameOverlapsPointer := by
  have henter : enter t s.ip s = .refused .frameOverlapsPointer := if_pos h
  rw [raise, sequence, henter]
  rfl

theorem exec_of_software_raises {s : State} {i : Instr} {n t : Byte} (hi : i ∈ [Instr.intN n, .int3, .into])
    (h : s.raises i t) : exec i s = raise t s := by
  simp only [List.mem_cons, List.not_mem_nil, or_false] at hi
  rcases exec_of_raises h with ⟨-, hexec⟩ | ⟨w, rm, hdiv, -⟩
  · exact hexec
  · rcases hi with rfl | rfl | rfl <;> simp at hdiv

/-- Settles O48: each is the sequence of its type in its own state. -/
theorem softwareInterrupts : Obligations.SoftwareInterrupts := by
  refine fun s => ⟨fun hof => if_neg (by simp [hof]), fun i t hi hraises => ?_⟩
  rw [exec_of_software_raises hi hraises]
  exact ⟨raise_of_overlap, raise_took⟩

/-! ### IRET -/

theorem stackTop_popped (s : State) : s.popped.stackTop = s.read16 s.sregs.ss (s.gpr.sp + 2) := rfl

theorem stackTop_popped_popped (s : State) : s.popped.popped.stackTop = s.read16 s.sregs.ss (s.gpr.sp + 4) := by
  have hadd : s.gpr.sp + 2 + 2 = s.gpr.sp + 4 := by bv_omega
  exact congrArg (s.read16 s.sregs.ss) hadd

/-- Three pops and a return, as one record update. -/
theorem popped_jumpFar_setFlags (s : State) (cs ip : Word) (f : Flags) : (s.popped.popped.popped.jumpFar cs ip).setFlags f =
    { s with
      gpr := s.gpr.set .r100 (s.gpr.sp + 2 + 2 + 2)
      sregs := s.sregs.set .cs cs
      ip := ip
      flags := f
      stale := [] } := rfl

/-- Everything IRET does (R363), with FLAGS as one word. -/
theorem returnFromInterrupt_effect (s : State) :
    let t := s.returnFromInterrupt
    t.ip = s.read16 s.sregs.ss s.gpr.sp ∧ s.sregs.only t.sregs .cs (s.yieldBus.read16 s.sregs.ss (s.gpr.sp + 2)) ∧
      t.flags = Flags.ofWord (s.yieldBus.yieldBus.read16 s.sregs.ss (s.gpr.sp + 4)) ∧
      s.gpr.onlyWord t.gpr .r100 (s.gpr.sp + 6) ∧ s.yieldBus.yieldBus.memSame t ∧ t.busLog = s.busLog ∧ t.stale = [] ∧
      s.yieldBus.yieldBus.restSame t := by
  have hadd : s.gpr.sp + 2 + 2 + 2 = s.gpr.sp + 6 := by bv_omega
  have hlog := returnFromInterrupt_busLog s
  rw [State.returnFromInterrupt, popped_jumpFar_setFlags, stackTop_popped, stackTop_popped_popped] at hlog ⊢
  rw [yieldBus_sregs, yieldBus_sregs, yieldBus_gpr, yieldBus_gpr, hadd] at hlog ⊢
  exact ⟨rfl, sregs_set_only s.sregs .cs _, rfl, gpr_set_onlyWord s.gpr .r100 _, fun _ => rfl, hlog, rfl,
    restSame_refl s.yieldBus.yieldBus⟩

/-- Settles O49: the flags of the popped word are its bits. -/
theorem interruptReturn : Obligations.InterruptReturn := by
  refine ⟨fun _ => rfl, fun s => ?_⟩
  obtain ⟨hip, hcs, hflags, hsp, hmem, hlog, hstale, hrest⟩ := returnFromInterrupt_effect s
  have hbit (get : Flags → Bool) := congrArg get hflags
  exact ⟨_, _, rfl, rfl, hip, hcs, hbit Flags.CF, hbit Flags.PF, hbit Flags.AF, hbit Flags.ZF, hbit Flags.SF, hbit Flags.TF,
    hbit Flags.IF, hbit Flags.DF, hbit Flags.OF, hsp, hmem, hlog, hstale, hrest⟩

/-! ### The words of a frame on a stack of RAM -/

/-- What is stored in RAM at different addresses is read back. -/
theorem readAfter_of_mem {s : State} (hram : ∀ a, s.kindOf a = .ram) {l : List (PAddr × Byte)}
    (hdistinct : (l.map Prod.fst).Nodup) {c : PAddr × Byte} (hc : c ∈ l) : s.readAfter l c.1.toNat = c.2 := by
  have hlater : ∀ (l : List (PAddr × Byte)) (v : Byte), c.1 ∉ l.map Prod.fst →
      l.foldl (fun v x => if c.1.toNat = x.1.toNat ∧ s.kindOf x.1 = .ram then x.2 else v) v = v := by
    intro l
    induction l with
    | nil => exact fun _ _ => rfl
    | cons x rest ih =>
      intro v hnot
      rw [List.map_cons, List.mem_cons, not_or] at hnot
      rw [List.foldl_cons, if_neg (fun h => hnot.1 (BitVec.eq_of_toNat_eq h.1)), ih v hnot.2]
  have hread : ∀ (l : List (PAddr × Byte)) (v : Byte), (l.map Prod.fst).Nodup → c ∈ l →
      l.foldl (fun v x => if c.1.toNat = x.1.toNat ∧ s.kindOf x.1 = .ram then x.2 else v) v = c.2 := by
    intro l
    induction l with
    | nil => exact fun _ _ h => absurd h List.not_mem_nil
    | cons x rest ih =>
      intro v hnodup hmem
      rw [List.map_cons, List.nodup_cons] at hnodup
      rw [List.foldl_cons]
      rcases List.mem_cons.mp hmem with rfl | hrest
      · rw [if_pos ⟨rfl, hram _⟩, hlater rest _ hnodup.1]
      · exact ih _ hnodup.2 hrest
  exact hread l _ hdistinct hc

theorem phys_injective (g : Word) : Function.Injective (phys g) := fun a b h => by
  by_contra hne
  exact phys_ne g hne (congrArg BitVec.toNat h)

/-- The six bytes of a frame stand at six addresses. -/
theorem frameBytes_nodup (s : State) (f : Flags) (ret : Word) : ((s.frameBytes f ret).map Prod.fst).Nodup := by
  have hoffsets : [s.gpr.sp - 2, s.gpr.sp - 2 + 1, s.gpr.sp - 4, s.gpr.sp - 4 + 1, s.gpr.sp - 6, s.gpr.sp - 6 + 1].Nodup := by
    simp only [List.nodup_cons, List.mem_cons, List.not_mem_nil, or_false, not_or, not_false_eq_true, List.nodup_nil,
      and_true]
    refine ⟨⟨?_, ?_, ?_, ?_, ?_⟩, ⟨?_, ?_, ?_, ?_⟩, ⟨?_, ?_, ?_⟩, ⟨?_, ?_⟩, ?_⟩ <;> bv_omega
  have hmapped := List.Nodup.map (phys_injective s.sregs.ss) hoffsets
  exact hmapped

/-- A word whose two bytes have been stored in RAM is read back. -/
theorem read16_of_storedBytes {s u : State} {l : List (PAddr × Byte)} {g o v : Word} (hmap : s.plat.memMap = [])
    (humap : u.plat.memMap = []) (hstored : s.storedBytes u l) (hdistinct : (l.map Prod.fst).Nodup)
    (hlow : (phys g o, lowByte v) ∈ l) (hhigh : (phys g (o + 1), highByte v) ∈ l) : u.read16 g o = v := by
  have hram : ∀ a, s.kindOf a = .ram := fun a => by simp [State.kindOf, hmap, kindAt]
  rw [State.read16, busRead_ram humap, busRead_ram humap, hstored.1, hstored.1, readAfter_of_mem hram hdistinct hlow,
    readAfter_of_mem hram hdistinct hhigh, wordOf_highByte_lowByte]

/-- The three words of a frame, read back at their places. -/
theorem frame_words {s u : State} {f : Flags} {ret : Word} (hmap : s.plat.memMap = []) (humap : u.plat.memMap = [])
    (hstored : s.storedBytes u (s.frameBytes f ret)) :
    u.read16 s.sregs.ss (s.gpr.sp - 2) = f.toWord s.plat.flagsImage ∧
      u.read16 s.sregs.ss (s.gpr.sp - 4) = s.sregs.cs ∧ u.read16 s.sregs.ss (s.gpr.sp - 6) = ret := by
  have hread {o v : Word} := read16_of_storedBytes (g := s.sregs.ss) (o := o) (v := v) hmap humap hstored
    (frameBytes_nodup s f ret)
  exact ⟨hread (by simp [State.frameBytes, wordBytes]) (by simp [State.frameBytes, wordBytes]),
    hread (by simp [State.frameBytes, wordBytes]) (by simp [State.frameBytes, wordBytes]),
    hread (by simp [State.frameBytes, wordBytes]) (by simp [State.frameBytes, wordBytes])⟩

theorem pointerInMemory_of_ram {s : State} (h : s.plat.memMap = []) (t : Byte) : s.pointerInMemory t = true := by
  simp [State.pointerInMemory, State.kindOf, h, kindAt]

/-! ### INT, then IRET -/

theorem gpr_ext_get {g h : Gpr} (hget : ∀ r, g.get r = h.get r) : g = h := by
  cases g; cases h
  have h0 := hget .r000; have h1 := hget .r001; have h2 := hget .r010; have h3 := hget .r011
  have h4 := hget .r100; have h5 := hget .r101; have h6 := hget .r110; have h7 := hget .r111
  simp only [Gpr.get] at h0 h1 h2 h3 h4 h5 h6 h7
  subst h0 h1 h2 h3 h4 h5 h6 h7
  rfl

theorem sregs_ext_get {g h : SegRegs} (hget : ∀ r, g.get r = h.get r) : g = h := by
  cases g; cases h
  have h0 := hget .es; have h1 := hget .cs; have h2 := hget .ss; have h3 := hget .ds
  simp only [SegRegs.get] at h0 h1 h2 h3
  subst h0 h1 h2 h3
  rfl

/-- A word register moved and moved back. -/
theorem onlyWord_back {g h k : Gpr} {r : RegCode} {v : Word} (h1 : g.onlyWord h r v) (h2 : h.onlyWord k r (g.get r)) :
    k = g :=
  gpr_ext_get fun x => by
    by_cases hx : x = r
    · exact hx ▸ h2.1
    · exact (h2.2 x hx).trans (h1.2 x hx)

theorem only_back {g h k : SegRegs} {r : SegReg} {v : Word} (h1 : g.only h r v) (h2 : h.only k r (g.get r)) : k = g :=
  sregs_ext_get fun x => by
    by_cases hx : x = r
    · exact hx ▸ h2.1
    · exact (h2.2 x hx).trans (h1.2 x hx)

/-- Settles O50: IRET pops the three words where the frame put them. -/
theorem interruptThenReturn : Obligations.InterruptThenReturn := by
  intro s t hmap hquiet hnmi htf hoverlap
  obtain ⟨u, hraise, htook, -, -⟩ := raise_took hnmi htf hoverlap (pointerInMemory_of_ram hmap t)
  obtain ⟨hgpr, -, -, hsregs, -, -, -, hstored, -, -, -, -, -, -, -, -, -, hplat⟩ := htook
  obtain ⟨hbytes, -, -, huquiet⟩ := hstored hquiet
  obtain ⟨hflagsWord, hcsWord, hipWord⟩ := frame_words hmap (hplat ▸ hmap) hbytes
  have hsp : u.gpr.sp = s.gpr.sp - 6 := hgpr.1
  have hss : u.sregs.ss = s.sregs.ss := hsregs.2 .ss (by decide)
  have hcsAt : s.gpr.sp - 6 + 2 = s.gpr.sp - 4 := by bv_omega
  have hflagsAt : s.gpr.sp - 6 + 4 = s.gpr.sp - 2 := by bv_omega
  have hspBack : s.gpr.sp - 6 + 6 = s.gpr.sp := by bv_omega
  obtain ⟨hip, hcs, hflags, hspOnly, -⟩ := returnFromInterrupt_effect u
  rw [yieldBus_quiet huquiet] at hcs hflags
  rw [yieldBus_quiet huquiet] at hflags
  rw [hss, hsp] at hip hcs hflags
  rw [hsp, hspBack] at hspOnly
  rw [hcsAt, hcsWord] at hcs
  rw [hflagsAt, hflagsWord, flags_ofWord_toWord] at hflags
  exact ⟨u, _, hraise, rfl, onlyWord_back hgpr hspOnly, only_back hsregs hcs, hip.trans hipWord, hflags⟩

/-! ### What the end of an instruction recognises (R415) -/

section
variable {s : State} {tf idle : Bool} {ret : Word}

/-- The state an interrupt sequence starts in: the idle states and prefixes are left, and an NMI served is latched no more. -/
def State.sequenceStart (s : State) : State := { s.leaveIdle with nmiLatch := false }

theorem sequenceStart_of_clear (h : s.nmiLatch = false) : s.leaveIdle = s.sequenceStart := by
  rw [State.sequenceStart, ← h]
  rfl

theorem recognise_of_nmi (h : s.nmiLatch = true) : recognise tf idle ret s = sequence 2 ret tf s.sequenceStart := if_pos h

theorem recognise_of_intr (hnmi : s.nmiLatch = false) (hcalls : (s.pins.intr && s.flags.IF) = true) :
    recognise tf idle ret s = sequence s.pins.intType ret tf s.sequenceStart := by
  unfold recognise
  rw [if_neg (by simp [hnmi]), if_pos hcalls, sequenceStart_of_clear hnmi]

theorem recognise_of_singleStep (hnmi : s.nmiLatch = false) (hcalls : (s.pins.intr && s.flags.IF) = false)
    (htf : tf = true) (hidle : idle = false) : recognise tf idle ret s = sequence 1 ret false s.sequenceStart := by
  unfold recognise
  rw [if_neg (by simp [hnmi]), if_neg (by simp [hcalls]), if_pos (by simp [htf, hidle]), sequenceStart_of_clear hnmi]

theorem recognise_of_nothing (hnmi : s.nmiLatch = false) (hcalls : (s.pins.intr && s.flags.IF) = false)
    (hstep : tf = false ∨ idle = true) : recognise tf idle ret s = .next s := by
  unfold recognise
  rw [if_neg (by simp [hnmi]), if_neg (by simp [hcalls]), if_neg (by rcases hstep with h | h <;> simp [h])]

/-- An NMI, or without one an enabled INTR, is an interrupt of type `x`. -/
def State.externalRequest (s : State) (x : Byte) : Prop :=
  (s.nmiLatch = true ∧ x = 2) ∨ (s.nmiLatch = false ∧ (s.pins.intr && s.flags.IF) = true ∧ x = s.pins.intType)

theorem recognise_of_external {x : Byte} (h : s.externalRequest x) :
    recognise tf idle ret s = sequence x ret tf s.sequenceStart := by
  rcases h with ⟨hnmi, rfl⟩ | ⟨hnmi, hcalls, rfl⟩
  · exact recognise_of_nmi hnmi
  · exact recognise_of_intr hnmi hcalls

/-- A sequence from there that chains nothing (R430). -/
theorem sequenceStart_took {x : Byte} (hoverlap : s.frameOverlaps x = false) (hpointer : s.pointerInMemory x = true) :
    ∃ u, sequence x ret false s.sequenceStart = .next u ∧ s.sequenceStart.took u x ret ∧ u.nmiLatch = false :=
  sequence_took (s := s.sequenceStart) rfl hoverlap hpointer

/-- An external interrupt of type `x` recognised, with TF 0 (R426, R427). -/
theorem recognise_took {x : Byte} (hrequest : s.externalRequest x) (htf : tf = false) (hoverlap : s.frameOverlaps x = false)
    (hpointer : s.pointerInMemory x = true) :
    ∃ u, recognise tf idle ret s = .next u ∧ s.sequenceStart.took u x ret ∧ u.nmiLatch = false := by
  rw [recognise_of_external hrequest, htf]
  exact sequenceStart_took hoverlap hpointer

/-- An external interrupt of type `x` recognised with TF 1: a single step is chained (R430 step 9). -/
theorem recognise_chained {x : Byte} (hmap : s.plat.memMap = []) (hquiet : s.busQueue = []) (hroom : s.room 12)
    (hrequest : s.externalRequest x) (htf : tf = true) :
    ∃ u, recognise tf idle ret s = .next u ∧ s.chained u x 1 12 := by
  rw [recognise_of_external hrequest, htf]
  exact sequence_single_chained (s := s.sequenceStart) x ret hmap hquiet hroom rfl

end

/-! ### The end of an instruction (R415) -/

theorem boundary_of_finished {s : State} {tf : Bool} {i : Instr} (hentered : s.entered = false) (hdelay : s.delay = false) :
    boundary tf i s = recognise tf s.waiting s.resumeAt (s.settlePrefixes i) := by
  unfold boundary
  rw [if_neg (by simp [hentered]), if_neg (by simp [hdelay])]

/-- The prefix state after an instruction that is no prefix byte (R47). -/
theorem settlePrefixes_of_not_prefix {s : State} {i : Instr} (hi : Instr.isPrefix i = false) : s.settlePrefixes i =
    if s.running = none ∧ s.waiting = false then { s with pfx := Prefixes.none } else s := by
  split
  · next h => exact settlePrefixes_of_finished hi ((unfinished_eq_false_iff s).mpr h)
  · next h =>
    have hgoes : s.unfinished = true := by
      rw [← Bool.not_eq_false]
      exact mt (unfinished_eq_false_iff s).mp h
    simp [State.settlePrefixes, hgoes]

/-- The prefixes settle without a trace in the state an interrupt sequence starts in. -/
theorem sequenceStart_settlePrefixes (s : State) (i : Instr) : (s.settlePrefixes i).sequenceStart = s.sequenceStart := by
  rw [settlePrefixes_eq]
  rfl

theorem externalRequest_settlePrefixes (s : State) (i : Instr) (x : Byte) :
    (s.settlePrefixes i).externalRequest x ↔ s.externalRequest x := by
  rw [settlePrefixes_eq]
  rfl

theorem resumeAt_eq (s : State) : s.resumeAt = if s.running = none then s.ip else s.ip - 2 := by
  unfold State.resumeAt
  cases s.running <;> rfl

/-- Settles O51: where the end of an instruction recognises, it starts the sequence of the first request in the order of
R415, from a state in which the prefixes, settled or not, are left behind. -/
theorem recognitionOrder : Obligations.RecognitionOrder := by
  intro s tf i hi hentered after start back calls
  have hafter : s.settlePrefixes i = after := settlePrefixes_of_not_prefix hi
  have hback : s.resumeAt = back := resumeAt_eq s
  refine ⟨fun hdelay => ?delayed, fun hdelay => ?recognised⟩
  case delayed => rw [boundary_of_delay tf i hentered hdelay, hafter]
  case recognised =>
    rw [boundary_of_finished hentered hdelay, hback]
    have hstart : (s.settlePrefixes i).sequenceStart = start := sequenceStart_settlePrefixes s i
    have hexternal {x : Byte} (hrequest : s.externalRequest x) (htf : tf = false) (hoverlap : s.frameOverlaps x = false)
        (hpointer : s.pointerInMemory x = true) :
        ∃ u, recognise tf s.waiting back (s.settlePrefixes i) = .next u ∧ start.took u x back ∧ u.nmiLatch = false := by
      rw [recognise_of_external ((externalRequest_settlePrefixes s i x).mpr hrequest), hstart, htf]
      exact sequenceStart_took hoverlap hpointer
    have hsame : (s.settlePrefixes i).nmiLatch = s.nmiLatch ∧
        ((s.settlePrefixes i).pins.intr && (s.settlePrefixes i).flags.IF) = (s.pins.intr && s.flags.IF) := by
      rw [settlePrefixes_eq]
      exact ⟨rfl, rfl⟩
    obtain ⟨hnmiSame, hcallsSame⟩ := hsame
    refine ⟨fun hnmi htf => hexternal (.inl ⟨hnmi, rfl⟩) htf, fun hnmi hcalls htf => hexternal (.inr ⟨hnmi, hcalls, rfl⟩) htf,
      fun hnmi hcalls htf hwait hoverlap hpointer => ?single, fun hnmi hcalls hstep => ?nothing⟩
    case single =>
      rw [recognise_of_singleStep (hnmiSame.trans hnmi) (hcallsSame.trans hcalls) htf hwait, hstart]
      exact sequenceStart_took hoverlap hpointer
    case nothing => rw [recognise_of_nothing (hnmiSame.trans hnmi) (hcallsSame.trans hcalls) hstep, hafter]

/-! ### Chained interrupts (R416, R430 steps 8 and 9) -/

/-- `chained` looks at SP, memory and nothing else of the state before. -/
theorem chained_congr {q s u : State} {t x : Byte} {n : Word} (h : q.chained u t x n) (hsp : q.gpr.sp = s.gpr.sp)
    (hmem : q.mem = s.mem) : s.chained u t x n := by
  have hword : ∀ a, q.wordAt a = s.wordAt a := fun a => by simp only [State.wordAt, hmem]
  simp only [State.chained, hword, hsp] at h ⊢
  exact h

/-- An internal interrupt, with what its sequence meets chained to it. -/
theorem raise_chained {q : State} (t : Byte) (hmap : q.plat.memMap = []) (hquiet : q.busQueue = []) (hroom : q.room 18) :
    ∃ u, raise t q = .next u ∧
      (q.nmiLatch = true → q.flags.TF = false → q.chained u t 2 12) ∧
      (q.nmiLatch = false → q.flags.TF = true → q.chained u t 1 12) ∧
      (q.nmiLatch = true → q.flags.TF = true →
        q.chained u 2 1 18 ∧ u.read16 u.sregs.ss (u.gpr.sp + 6) = q.wordAt (4 * t.toNat)) := by
  have hroom12 := room_mono hroom (by decide : 12 ≤ 18)
  have hraise {u : State} (h : sequence t q.ip q.flags.TF q = .next u) : raise t q = .next { u with entered := true } := by
    rw [raise, h]
    rfl
  cases hnmi : q.nmiLatch <;> cases htf : q.flags.TF <;> rw [htf] at hraise
  · exact ⟨_, hraise (sequence_plain hnmi (frameOverlaps_room t (room_mono hroom (by decide)))), nofun, nofun, nofun⟩
  · obtain ⟨u, hrun, hchained⟩ := sequence_single_chained t q.ip hmap hquiet hroom12 hnmi
    exact ⟨_, hraise hrun, nofun, fun _ _ => hchained, nofun⟩
  · obtain ⟨u, hrun, hchained⟩ := sequence_nmi_chained t q.ip hmap hquiet hroom12 hnmi
    exact ⟨_, hraise hrun, fun _ _ => hchained, nofun, nofun⟩
  · obtain ⟨u, hrun, hchained, hthird⟩ := sequence_both_chained t q.ip hmap hquiet hroom hnmi
    exact ⟨_, hraise hrun, nofun, nofun, fun _ _ => ⟨hchained, hthird⟩⟩

/-- An instruction that raises an interrupt does so in a state with the same stack, memory, TF and NMI latch (R418). -/
theorem exec_raises_as {s : State} {i : Instr} {t : Byte} (h : s.raises i t) : ∃ q : State, exec i s = raise t q ∧
    q.gpr.sp = s.gpr.sp ∧ q.sregs = s.sregs ∧ q.mem = s.mem ∧ q.nmiLatch = s.nmiLatch ∧ q.flags.TF = s.flags.TF ∧
      q.plat = s.plat ∧ q.busQueue = s.busQueue := by
  rcases exec_of_raises h with ⟨-, hexec⟩ | ⟨w, rm, -, rfl, hexec⟩
  · exact ⟨s, hexec, rfl, rfl, rfl, rfl, rfl, rfl, rfl⟩
  · exact ⟨_, hexec, by cases w <;> exact ⟨rfl, rfl, rfl, rfl, rfl, rfl, rfl⟩⟩

/-- One entry that chains nothing, on a stack of RAM. -/
theorem sequence_plain_in_ram {s : State} (t : Byte) (ret : Word) (hmap : s.plat.memMap = []) (hquiet : s.busQueue = [])
    (hroom : s.room 6) (hnmi : s.nmiLatch = false) :
    ∃ u, sequence t ret false s = .next u ∧ u.gpr.sp = s.gpr.sp - 6 ∧ u.ip = s.wordAt (4 * t.toNat) ∧
      u.sregs.cs = s.wordAt (4 * t.toNat + 2) := by
  have hentry := entry_in_ram t ret 0 (by decide) hmap hquiet hroom
  exact ⟨_, sequence_plain hnmi (frameOverlaps_room t hroom), hentry.sp, hentry.ip, hentry.cs⟩

/-- Settles O52: the sequence of an internal or external interrupt runs in a state with the instruction's own stack and
memory, and chains what it meets. -/
theorem chainedInterrupts : Obligations.ChainedInterrupts := by
  intro s hmap hquiet hstack
  have hroom := room_of_stack hstack
  refine ⟨fun i t hraises => ?internal, fun i tf t hentered hdelay hrequest => ?external⟩
  case internal =>
    obtain ⟨q, hexec, hsp, hsregs, hmem, hnmi, htf, hplat, hqueue⟩ := exec_raises_as hraises
    have hqroom : q.room 18 := by rw [State.room, hsp, hsregs]; exact hroom
    obtain ⟨u, hraise, hnmiOnly, hstepOnly, hboth⟩ := raise_chained t (hplat ▸ hmap) (hqueue ▸ hquiet) hqroom
    rw [hnmi, htf] at hnmiOnly hstepOnly hboth
    have hword : q.wordAt (4 * t.toNat) = s.wordAt (4 * t.toNat) := by simp only [State.wordAt, hmem]
    refine ⟨u, hexec.trans hraise, fun h1 h2 => chained_congr (hnmiOnly h1 h2) hsp hmem,
      fun h1 h2 => chained_congr (hstepOnly h1 h2) hsp hmem, fun h1 h2 => ?_⟩
    obtain ⟨hchained, hthird⟩ := hboth h1 h2
    exact ⟨chained_congr hchained hsp hmem, hthird.trans hword⟩
  case external =>
    rw [boundary_of_finished hentered hdelay,
      recognise_of_external ((externalRequest_settlePrefixes s i t).mpr hrequest), sequenceStart_settlePrefixes]
    cases tf with
    | true =>
      obtain ⟨u, hrun, hchained⟩ := sequence_single_chained (s := s.sequenceStart) t s.resumeAt hmap hquiet
        (room_mono (s := s) hroom (by decide)) rfl
      exact ⟨u, hrun, fun _ => hchained, nofun⟩
    | false =>
      obtain ⟨u, hrun, hplain⟩ := sequence_plain_in_ram (s := s.sequenceStart) t s.resumeAt hmap hquiet
        (room_mono (s := s) hroom (by decide)) rfl
      exact ⟨u, hrun, nofun, fun _ => hplain⟩

end Sys2Proof.Machine
end

section
/-! PROOFS of 45_processor_control.md and 60_exceptions.md (O53 to O55): the turns of the halt state and of WAIT, and the
life of the NMI latch. -/

namespace Sys2Proof.Machine
open Sys2Proof

/-! ### The halt state -/

theorem turn_of_halted {s : State} (h : s.halted = true) : turn s = recognise s.flags.TF true s.ip s := if_pos h

/-- Settles O53: a turn of the halt state recognises an NMI or INTR, and nothing else (R396). -/
theorem haltWake : Obligations.HaltWake := by
  intro s hhalted hreset hwas hbus p start
  have hp : p.halted = true := (served_halted s).trans hhalted
  have hip : p.ip = s.ip := served_ip s
  have hstep : step s = recognise p.flags.TF true s.ip p := by rw [step_turn hreset hwas hbus, turn_of_halted hp, hip]
  rw [hstep]
  refine ⟨hp, served_gpr s, served_sregs s, hip, served_flags s,
    fun hnmi hcalls => recognise_of_nothing hnmi hcalls (.inr rfl),
    fun hnmi htf => recognise_took (.inl ⟨hnmi, rfl⟩) htf,
    fun hnmi hintr hif htf => recognise_took (.inr ⟨hnmi, ?_, rfl⟩) htf,
    fun htf hmap hquiet hstack x hrequest => ?_⟩
  · rw [hintr, hif]; rfl
  · exact recognise_chained hmap hquiet (room_mono (room_of_stack hstack) (by decide)) hrequest htf

/-! ### A turn of WAIT -/

theorem perform_of_no_repeat {i : Instr} {s : State} (h : s.pfx.rep = none) :
    perform i s = andThen (exec i s) (boundary s.flags.TF i) := by
  have hbad : s.badRepeat i = false := by simp [State.badRepeat, h]
  rw [perform, if_neg (by simp [hbad])]

/-- A turn of a WAIT that waits runs it again, at its IP_next (R397). -/
theorem turn_of_waiting {s : State} {next : Word} {f : Flags} (hhalted : s.halted = false) (hwait : s.waiting = true)
    (hrep : s.pfx.rep = none) (hnext : s.afterWait = next) (hflags : s.flags = f) :
    turn s = andThen (exec .wait { s with ip := next }) (boundary f.TF .wait) := by
  subst hnext hflags
  rw [turn, if_neg (by simp [hhalted]), if_pos hwait]
  exact perform_of_no_repeat hrep

theorem settlePrefixes_of_waiting {s : State} (h : s.waiting = true) (i : Instr) : s.settlePrefixes i = s := by
  simp [State.settlePrefixes, State.unfinished, h]

/-- The end of a turn of WAIT that goes on: the prefixes stay, and a single step does not count (R397; log 24). -/
theorem boundary_of_waiting {s : State} (i : Instr) {tf : Bool} (hentered : s.entered = false) (hdelay : s.delay = false)
    (hrun : s.running = none) (h : s.waiting = true) : boundary tf i s = recognise tf true s.ip s := by
  rw [boundary_of_finished hentered hdelay, settlePrefixes_of_waiting h, h, resumeAt_eq, if_pos hrun]

/-- The state of a WAIT that finds TEST HIGH: IP stands at the WAIT or its first prefix (D25; log 14). -/
def State.waitsHere (s : State) : State := { s with ip := s.start, afterWait := s.ip, waiting := true }

theorem waitsHere_frameOverlaps (s : State) (x : Byte) : s.waitsHere.frameOverlaps x = s.frameOverlaps x := rfl

theorem waitsHere_pointerInMemory (s : State) (x : Byte) : s.waitsHere.pointerInMemory x = s.pointerInMemory x := rfl

/-- Settles O54: IP stands at the WAIT while it waits, so its interrupts return there. -/
theorem waitTurn : Obligations.WaitTurn := by
  intro s
  refine ⟨fun hwait hhalted hrep hreset hwas hbus => ?turn, fun htest hentered hdelay hrun => ?ends⟩
  case turn =>
    rw [step_turn hreset hwas hbus, turn_of_waiting ((served_halted s).trans hhalted) ((served_waiting s).trans hwait)
      ((congrArg Prefixes.rep (served_pfx s)).trans hrep) (served_afterWait s) (served_flags s)]
  case ends =>
    refine ⟨s.waitsHere, exec_wait_high htest, rfl, fun tf => ?_⟩
    have hend : boundary tf .wait s.waitsHere = recognise tf true s.start s.waitsHere :=
      boundary_of_waiting .wait hentered hdelay hrun rfl
    have htook {x : Byte} (hrequest : s.externalRequest x) (htf : tf = false) (hoverlap : s.frameOverlaps x = false)
        (hpointer : s.pointerInMemory x = true) :
        ∃ u, recognise tf true s.start s.waitsHere = .next u ∧ s.waitsHere.sequenceStart.took u x s.start ∧
          u.nmiLatch = false :=
      recognise_took hrequest htf ((waitsHere_frameOverlaps s x).trans hoverlap)
        ((waitsHere_pointerInMemory s x).trans hpointer)
    rw [hend]
    refine ⟨fun hnmi htf => htook (.inl ⟨hnmi, rfl⟩) htf, fun hnmi hintr hif htf => htook (.inr ⟨hnmi, ?_, rfl⟩) htf,
      fun htf hmap hquiet hstack x hrequest => ?chained,
      fun hnmi hcalls => ⟨recognise_of_nothing hnmi hcalls (.inr rfl), rfl, rfl⟩⟩
    · rw [hintr, hif]; rfl
    case chained =>
      have hroom : s.waitsHere.room 12 := room_mono (s := s) (room_of_stack hstack) (by decide)
      obtain ⟨u, hrun, hchained⟩ :=
        recognise_chained (idle := true) (ret := s.start) (s := s.waitsHere) hmap hquiet hroom hrequest htf
      exact ⟨u, hrun, chained_congr hchained rfl rfl⟩

/-! ### One entry on a stack of RAM that may meet other pointers (R430) -/

/-- What an entry from `s` to `u` leaves where other masters have nothing to write: control is at its own pointer, which its
frame does not meet, and the return offset is on top of the stack. -/
structure QuietEntry (s u : State) (t : Byte) (ret : Word) : Prop where
  ip : u.ip = u.wordAt (4 * t.toNat)
  cs : u.sregs.cs = u.wordAt (4 * t.toNat + 2)
  ss : u.sregs.ss = s.sregs.ss
  plat : u.plat = s.plat
  quiet : u.busQueue = []
  stored : s.storedBytes u (s.frameBytes s.flags ret)
  top : u.read16 s.sregs.ss (s.gpr.sp - 6) = ret

theorem enter_sp {s u : State} {t : Byte} {ret : Word} (h : enter t ret s = .next u) : u.gpr.sp = s.gpr.sp - 6 := by
  obtain ⟨-, rfl⟩ := enter_next.1 h
  rw [entered7_gpr]
  rfl

theorem quietEntry_of_enter {s u : State} {t : Byte} {ret : Word} (hmap : s.plat.memMap = []) (hquiet : s.busQueue = [])
    (h : enter t ret s = .next u) : QuietEntry s u t ret := by
  obtain ⟨hoverlap, rfl⟩ := enter_next.1 h
  obtain ⟨-, -, -, hsregs, -, -, -, hstored, -, -, -, -, -, -, -, -, -, hplat⟩ :=
    took_entered7 ret hoverlap (pointerInMemory_of_ram hmap t)
  obtain ⟨hbytes, hip, hcs, hqueue⟩ := hstored hquiet
  have hbyte (k : Nat) (hk : k < 4) : memRead (s.entered7 t ret).mem (4 * t.toNat + k) = memRead s.mem (4 * t.toNat + k) := by
    rw [hbytes.1, readAfter_other _ _ _ (frame_off_pointer _ _ hoverlap k hk)]
  obtain ⟨-, -, htop⟩ := frame_words hmap (hplat ▸ hmap) hbytes
  refine ⟨?_, ?_, hsregs.2 .ss (by decide), hplat, hqueue, hbytes, htop⟩
  · rw [hip, State.wordAt, State.wordAt, hbyte 1 (by decide)]
    exact congrArg (wordOf _) (hbyte 0 (by decide)).symm
  · rw [hcs, State.wordAt, State.wordAt, Nat.add_assoc, hbyte 3 (by decide), hbyte 2 (by decide)]

/-- A frame above the first three pointers leaves them as they were. -/
theorem QuietEntry.low {s u : State} {t : Byte} {ret : Word} (h : QuietEntry s u t ret)
    (habove : ∀ k < 6, 12 ≤ (phys s.sregs.ss (s.gpr.sp - 6 + BitVec.ofNat 16 k)).toNat) (a : Nat) (ha : a < 12) :
    memRead u.mem a = memRead s.mem a := by
  rw [h.stored.1, readAfter_other]
  intro c hc
  obtain ⟨k, hk, hat⟩ := frameBytes_offset c hc
  have hoffset : s.gpr.sp - 6 + BitVec.ofNat 16 (5 - k) = s.gpr.sp - BitVec.ofNat 16 (k + 1) := by
    interval_cases k <;> bv_omega
  have hfar := habove (5 - k) (by omega)
  rw [hoffset, ← hat] at hfar
  omega

/-! ### An NMI taken (R426, R430) -/

/-- The interrupt of type 2 was taken, with its frame below `sp`, and where `tf` says so the single step chained to it, in a
turn that began with the parameters and the queue of other masters' writes of `s`. -/
structure NmiTaken (s : State) (tf : Bool) (sp : Word) (t : State) : Prop where
  ifl : t.flags.IF = false
  tfl : t.flags.TF = false
  stale : t.stale = []
  halted : t.halted = false
  waiting : t.waiting = false
  running : t.running = none
  pfx : t.pfx = Prefixes.none
  sp : t.gpr.sp = sp - (if tf then 12 else 6)
  control : s.plat.memMap = [] → s.busQueue = [] →
    t.ip = t.wordAt (if tf then 4 else 8) ∧ t.sregs.cs = t.wordAt (if tf then 6 else 10) ∧
      (tf = true → (∀ k < 6, 12 ≤ (phys t.sregs.ss (t.gpr.sp + BitVec.ofNat 16 k)).toNat) →
        t.read16 t.sregs.ss t.gpr.sp = t.wordAt 8)

/-- It may be said of an earlier state of the turn. -/
theorem NmiTaken.of_earlier {s u t : State} {tf : Bool} {sp : Word} (h : NmiTaken u tf sp t) (hplat : u.plat = s.plat)
    (hquiet : s.busQueue = [] → u.busQueue = []) : NmiTaken s tf sp t :=
  { h with control := fun hmap hqueue => h.control (hplat ▸ hmap) (hquiet hqueue) }

/-- The two shapes of an NMI's sequence: its own entry, or that of a single step on top of it. -/
theorem sequence_nmi_entries {q t : State} {ret : Word} {tf : Bool} (hnmi : q.nmiLatch = false)
    (h : sequence 2 ret tf q = .next t) :
    (tf = false ∧ enter 2 ret q = .next t) ∨ (tf = true ∧ ∃ u, enter 2 ret q = .next u ∧ enter 1 u.ip u = .next t) := by
  obtain ⟨hoverlap, x, hx, hlast⟩ := sequence_next h
  have henter : enter 2 ret q = .next x := by
    rcases hx with ⟨-, rfl⟩ | ⟨hset, -⟩
    · exact enter_next.2 ⟨hoverlap, rfl⟩
    · rw [hnmi] at hset; cases hset
  rcases hlast with ⟨htf, rfl⟩ | ⟨htf, hsecond⟩
  · exact .inl ⟨htf, henter⟩
  · exact .inr ⟨htf, x, henter, hsecond⟩

/-- Where control stands after a single step's entry on top of an NMI's (R430 step 9). -/
theorem control_of_two_entries {q u t : State} {ret : Word} (hfirst : QuietEntry q u 2 ret)
    (hsp : t.gpr.sp = u.gpr.sp - 6) (hsecond : QuietEntry u t 1 u.ip)
    (habove : ∀ k < 6, 12 ≤ (phys t.sregs.ss (t.gpr.sp + BitVec.ofNat 16 k)).toNat) :
    t.read16 t.sregs.ss t.gpr.sp = t.wordAt 8 := by
  rw [hsecond.ss, hsp] at habove ⊢
  rw [hsecond.top, hfirst.ip, State.wordAt, State.wordAt, hsecond.low habove 9 (by decide), hsecond.low habove 8 (by decide)]
  rfl

/-- All the sequence of an NMI does that started with its latch cleared. -/
theorem nmiTaken_of_sequence {q t : State} {ret : Word} {tf : Bool} (hnmi : q.nmiLatch = false)
    (h : sequence 2 ret tf q = .next t) : NmiTaken q tf q.gpr.sp t := by
  have hafter := sequence_after h
  have htaken (hsp : t.gpr.sp = q.gpr.sp - (if tf then 12 else 6)) :=
    NmiTaken.mk (s := q) (tf := tf) hafter.ifl hafter.tf hafter.stale hafter.halted hafter.waiting hafter.running hafter.pfx hsp
  rcases sequence_nmi_entries hnmi h with ⟨rfl, henter⟩ | ⟨rfl, u, henter, hsecond⟩
  · refine htaken (enter_sp henter) fun hmap hquiet => ?_
    have hentry := quietEntry_of_enter hmap hquiet henter
    exact ⟨hentry.ip, hentry.cs, nofun⟩
  · have hsp := enter_sp hsecond
    refine htaken ?_ fun hmap hquiet => ?_
    · rw [hsp, enter_sp henter, if_pos rfl]
      bv_omega
    · have hfirst := quietEntry_of_enter hmap hquiet henter
      have hentry := quietEntry_of_enter (hfirst.plat ▸ hmap) hfirst.quiet hsecond
      exact ⟨hentry.ip, hentry.cs, fun _ => control_of_two_entries hfirst hsp hentry⟩

/-! ### The latch through a turn -/

/-- What becomes of the NMI latch between `s` and `t`: clear it stays clear, set it stays set or its interrupt is taken. -/
def State.latchTo (s : State) (tf : Bool) (sp : Word) (t : State) : Prop :=
  (s.nmiLatch = false → t.nmiLatch = false) ∧ (s.nmiLatch = true → t.nmiLatch = true ∨ NmiTaken s tf sp t)

theorem latchTo_of_same {s t : State} (tf : Bool) (sp : Word) (h : t.nmiLatch = s.nmiLatch) : s.latchTo tf sp t :=
  ⟨fun hclear => h.trans hclear, fun hset => .inl (h.trans hset)⟩

theorem State.latchTo.of_earlier {s u t : State} {tf : Bool} {sp : Word} (h : u.latchTo tf sp t)
    (hlatch : u.nmiLatch = s.nmiLatch) (hplat : u.plat = s.plat) (hquiet : s.busQueue = [] → u.busQueue = []) :
    s.latchTo tf sp t :=
  ⟨fun hclear => h.1 (hlatch.trans hclear),
    fun hset => (h.2 (hlatch.trans hset)).imp_right fun htaken => htaken.of_earlier hplat hquiet⟩

/-- The mark that an interrupt was entered is none of it. -/
theorem State.latchTo.with_entered {s t : State} {tf : Bool} {sp : Word} (h : s.latchTo tf sp t) (b : Bool) :
    s.latchTo tf sp { t with entered := b } :=
  ⟨h.1, fun hset => (h.2 hset).imp_right fun htaken =>
    ⟨htaken.ifl, htaken.tfl, htaken.stale, htaken.halted, htaken.waiting, htaken.running, htaken.pfx, htaken.sp,
      htaken.control⟩⟩

/-- The recognition of interrupts takes a latched NMI (R426). -/
theorem latchTo_of_recognise {s t : State} {tf idle : Bool} {ret : Word} (h : recognise tf idle ret s = .next t) :
    s.latchTo tf s.gpr.sp t := by
  refine ⟨fun hclear => ?_, fun hset => .inr ?_⟩
  · rcases recognise_next h with rfl | ⟨_, _, _, -, hsequence⟩
    · exact hclear
    · exact (sequence_after hsequence).nmiLatch
  · rw [recognise_of_nmi hset] at h
    exact (nmiTaken_of_sequence rfl h).of_earlier rfl id

/-- With an NMI latched the rest of a sequence, after its own entry, is the NMI's sequence (R430 step 8). -/
theorem sequence_of_latched {q t : State} {ty : Byte} {ret : Word} {tf : Bool} (hset : q.nmiLatch = true)
    (h : sequence ty ret tf q = .next t) :
    ∃ e, enter ty ret q = .next e ∧ sequence 2 e.ip tf e.clearNmi = .next t := by
  obtain ⟨hoverlap, x, hx, hlast⟩ := sequence_next h
  refine ⟨_, enter_next.2 ⟨hoverlap, rfl⟩, ?_⟩
  rcases hx with ⟨hclear, -⟩ | ⟨-, henter⟩
  · rw [hset] at hclear; cases hclear
  · obtain ⟨hnmiOverlap, rfl⟩ := enter_next.1 henter
    rcases hlast with ⟨rfl, rfl⟩ | ⟨rfl, hsecond⟩
    · exact sequence_plain rfl hnmiOverlap
    · rw [sequence, henter, andThen_ok, if_neg (by simp [State.entered7]), andThen_ok, if_pos rfl, hsecond]

theorem entered7_quiet {s : State} (t : Byte) (ret : Word) (h : s.busQueue = []) : (s.entered7 t ret).busQueue = [] := by
  have hpushed : (s.tick.pushFrame ret).busQueue = [] := by
    rw [pushFrame_quiet ret (s := s.tick) h]
    simpa using h
  have hqueue : (s.entered7 t ret).busQueue = (s.tick.pushFrame ret).yieldBus.yieldBus.busQueue := by
    simp [State.entered7, State.throughPointer]
  rw [hqueue, yieldBus_quiet hpushed, yieldBus_quiet hpushed, hpushed]

/-- The sequence of an internal interrupt serves a latched NMI below its own frame (R430 step 8). -/
theorem latchTo_of_sequence {q t : State} {ty : Byte} {ret : Word} {tf : Bool} (h : sequence ty ret tf q = .next t) :
    q.latchTo tf (q.gpr.sp - 6) t := by
  refine ⟨fun _ => (sequence_after h).nmiLatch, fun hset => .inr ?_⟩
  obtain ⟨e, henter, hsequence⟩ := sequence_of_latched hset h
  have htaken := nmiTaken_of_sequence rfl hsequence
  rw [clearNmi_gpr, enter_sp henter] at htaken
  obtain ⟨-, rfl⟩ := enter_next.1 henter
  exact htaken.of_earlier (by simp [State.entered7]) fun hquiet => (clearNmi_busQueue _).trans (entered7_quiet ty ret hquiet)

theorem boundary_of_entered {s : State} (tf : Bool) (i : Instr) (h : s.entered = true) :
    boundary tf i s = .next { s with entered := false } := if_pos h

theorem latchTo_of_boundary {i : Instr} {s t : State} {tf : Bool} (h : boundary tf i s = .next t) :
    s.latchTo tf s.gpr.sp t := by
  cases hentered : s.entered with
  | true =>
    rw [boundary_of_entered tf i hentered] at h
    obtain rfl := Host.Outcome.next.inj h
    exact latchTo_of_same _ _ rfl
  | false =>
    have hsettled := settlePrefixes_eq s i
    cases hdelay : s.delay with
    | true =>
      rw [boundary_of_delay tf i hentered hdelay, hsettled] at h
      obtain rfl := Host.Outcome.next.inj h
      exact latchTo_of_same _ _ rfl
    | false =>
      rw [boundary_of_finished hentered hdelay, hsettled] at h
      exact (latchTo_of_recognise h).of_earlier rfl rfl id

/-- The values a divide error leaves touch none of what its interrupt's sequence saves or serves. -/
theorem raisingAs_same {s q : State} (h : s.raisingAs q) : q.nmiLatch = s.nmiLatch ∧ q.flags.TF = s.flags.TF ∧
    q.gpr.sp = s.gpr.sp ∧ q.plat = s.plat ∧ q.busQueue = s.busQueue := by
  rcases h with rfl | ⟨w, rfl⟩
  · exact ⟨rfl, rfl, rfl, rfl, rfl⟩
  · cases w <;> exact ⟨rfl, rfl, rfl, rfl, rfl⟩

theorem raise_next {ty : Byte} {q v : State} (h : raise ty q = .next v) :
    ∃ e, sequence ty q.ip q.flags.TF q = .next e ∧ v = { e with entered := true } := by
  obtain ⟨e, hsequence, hlast⟩ := andThen_next.1 h
  exact ⟨e, hsequence, (Host.Outcome.next.inj hlast).symm⟩

/-- What an instruction performed, with its end, does to the latch: an NMI is taken below SP at its end, or below the frame
of the interrupt it raises. -/
theorem latchTo_of_perform {i : Instr} {s t : State} (h : perform i s = .next t) : ∃ v, exec i s = .next v ∧
    s.latchTo s.flags.TF (if v.entered then s.gpr.sp - 6 else v.gpr.sp) t := by
  unfold perform at h
  split at h
  · cases h
  obtain ⟨v, hexec, hend⟩ := andThen_next.1 h
  refine ⟨v, hexec, ?_⟩
  rcases exec_outcome i s v hexec with heffect | ⟨-, ty, q, hq, hraise⟩
  · cases hentered : v.entered with
    | true =>
      rw [boundary_of_entered _ i hentered] at hend
      obtain rfl := Host.Outcome.next.inj hend
      exact latchTo_of_same _ _ heffect.nmiLatch
    | false => exact (latchTo_of_boundary hend).of_earlier heffect.nmiLatch heffect.plat heffect.quiet
  · obtain ⟨hnmi, htf, hsp, hplat, hqueue⟩ := raisingAs_same hq
    obtain ⟨e, hsequence, rfl⟩ := raise_next hraise
    rw [boundary_of_entered _ i rfl] at hend
    obtain rfl := Host.Outcome.next.inj hend
    have hlatch := (latchTo_of_sequence hsequence).of_earlier hnmi hplat fun h => hqueue.trans h
    rw [htf, hsp] at hlatch
    exact hlatch.with_entered false

theorem keeps_fetched (s : State) (n : Nat) : s.Keeps (s.fetched n) :=
  ⟨wf_fetched s n, by simp, by simp, by simp, by simp, by simp, by simp, by simp, by simp, by simp, by simp,
    fun h => (keeps_yieldBus _).quiet (by simpa using h)⟩

/-- The CPU's turn recognises in the halt state, and else performs what `performs` says. -/
theorem turn_next {s t : State} (h : turn s = .next t) :
    (s.performs = none ∧ recognise s.flags.TF true s.ip s = .next t) ∨
      ∃ i u, s.performs = some (i, u) ∧ perform i u = .next t ∧ s.Keeps u := by
  unfold turn at h
  unfold State.performs
  by_cases hhalted : s.halted = true
  · rw [if_pos hhalted] at h ⊢
    exact .inl ⟨rfl, h⟩
  right
  rw [if_neg hhalted] at h ⊢
  by_cases hwait : s.waiting = true
  · rw [if_pos hwait] at h ⊢
    exact ⟨_, _, rfl, h, keeps_local s _ _ _ _ _ _ _⟩
  rw [if_neg hwait] at h ⊢
  cases hrun : s.running with
  | some i =>
    rw [hrun] at h
    exact ⟨_, _, rfl, h, keeps_refl s⟩
  | none =>
    have hfetch : fetchAndPerform s = .next t := by simpa [hrun] using h
    cases hdecode : decode s.fetchBytes with
    | error e => simp [fetchAndPerform, hdecode] at hfetch
    | ok p =>
      rw [fetchAndPerform_of_decode hdecode] at hfetch
      exact ⟨_, _, rfl, hfetch, keeps_fetched s _⟩

theorem latchTo_of_turn {s t : State} (h : turn s = .next t) : ∃ sp, s.nmiFrameBelow sp ∧ s.latchTo s.flags.TF sp t := by
  rcases turn_next h with ⟨hnone, hrecognise⟩ | ⟨i, u, hsome, hperform, hkeeps⟩
  · refine ⟨s.gpr.sp, ?_, latchTo_of_recognise hrecognise⟩
    rw [State.nmiFrameBelow, hnone]
  · obtain ⟨v, hexec, hlatch⟩ := latchTo_of_perform hperform
    rw [hkeeps.tf] at hlatch
    refine ⟨_, ?_, hlatch.of_earlier hkeeps.nmiLatch hkeeps.plat hkeeps.quiet⟩
    rw [State.nmiFrameBelow, hsome]
    exact ⟨v, hexec, rfl⟩

/-! ### The statement -/

theorem sampleInputs_nmiLatch_of_no_sample {s : State} (h : s.inputs = []) : s.sampleInputs.nmiLatch = s.nmiLatch := by
  rw [State.sampleInputs, h, tick_nmiLatch]

/-- Settles O55: a step without RESET waits for the bus and leaves the latch, or is a turn of the CPU. -/
theorem nmiLatch : Obligations.NmiLatch := by
  intro s
  refine ⟨fun e rest h => (sampleInputs_of_sample h).2, sampleInputs_nmiLatch_of_no_sample,
    fun t hstep hreset hwas => ?_⟩
  have hsame : s.served.nmiLatch = s.sampleInputs.nmiLatch := served_nmiLatch s
  rcases step_cases s with ⟨hhigh, -⟩ | ⟨-, hfalls, -⟩ | ⟨-, -, -, hnext⟩ | ⟨-, -, -, hnext⟩
  · rw [hreset] at hhigh; cases hhigh
  · rw [hwas] at hfalls; cases hfalls
  · obtain rfl : s.served = t := Host.Outcome.next.inj (hnext.symm.trans hstep)
    exact ⟨hsame.trans, fun hset => .inl (hsame.trans hset)⟩
  · obtain ⟨sp, hbelow, hclear, hset⟩ := latchTo_of_turn (hnext.symm.trans hstep)
    rw [served_flags] at hset
    refine ⟨fun h => hclear (hsame.trans h), fun h => (hset (hsame.trans h)).imp_right fun htaken => ?_⟩
    exact ⟨htaken.ifl, htaken.tfl, htaken.stale, htaken.halted, htaken.waiting, htaken.running, htaken.pfx,
      ⟨sp, hbelow, htaken.sp⟩, fun hmap hquiet => htaken.control ((served_plat s).symm ▸ hmap) hquiet⟩

end Sys2Proof.Machine
end
